-- ==== Sys2Proof/Word.lean ====
section
/-! DEFINITION. The word types of the HDLC secondary-station engine (00_scope.md R9, R10): bytes, 3-bit sequence
numbers with arithmetic modulo 8, bit strings in transmission order. -/

namespace Sys2Proof

/-- A byte of the SDU buffer (20_memory.md R44). -/
abbrev Byte := BitVec 8

/-- A sequence number: 3 bits, all arithmetic modulo 8 (00_scope.md R7, R10). -/
abbrev SeqNum := BitVec 3

/-- A finite bit string in transmission order, `b[0]` first (00_scope.md R9). A frame is one of these (R56). -/
abbrev Bits := List Bool

end Sys2Proof
end

