-- ==== Sys2Proof/Syntax.lean ====
section
/-! DEFINITION. The instructions: one constructor per row of spec/opcode_table.json, five host commands
(30_encoding.md R71) and nine frame kinds (R62 to R65), and the two forms of an encoded instruction. -/

namespace Sys2Proof

/-- The instructions of the engine (00_scope.md R3). A frame kind is the control field of a frame; the frame's
address and information field are no part of it (log 10). -/
inductive Instr where
  /-- CONN_IND: wait for an SNRM (41_connection.md R100). -/
  | connInd
  /-- CONN_RESP: transmit a UA and renumber the window (R101). -/
  | connResp
  /-- DISC_IND: wait for a DISC (R102). -/
  | discInd
  /-- DATA_REQ with the SDU length LEN in bytes (43_transfer_engine.md R118). -/
  | dataReq (len : BitVec 16)
  /-- CLOSE: release the channel transport (41_connection.md R104). -/
  | close
  /-- I: information frame `0 sss P rrr` (30_encoding.md R59). -/
  | iFrame (ns : SeqNum) (pf : Bool) (nr : SeqNum)
  /-- RR: receiver ready, S code 00 (R60, R63). -/
  | rr (pf : Bool) (nr : SeqNum)
  /-- RNR: receiver not ready, S code 10 (R63). -/
  | rnr (pf : Bool) (nr : SeqNum)
  /-- REJ: reject, S code 01 (R63). -/
  | rej (pf : Bool) (nr : SeqNum)
  /-- SREJ: selective reject, S code 11 (R63). -/
  | srej (pf : Bool) (nr : SeqNum)
  /-- SNRM: set normal response mode, modifier 1 (R64). -/
  | snrm (pf : Bool)
  /-- DISC: disconnect, modifier 2 (R64). -/
  | disc (pf : Bool)
  /-- UA: unnumbered acknowledge, modifier 6 (R64). -/
  | ua (pf : Bool)
  /-- U_OTHER: every other unnumbered modifier, `MOD = 8*M1 + M2` (R61, R64). -/
  | uOther (m1 : BitVec 2) (pf : Bool) (m2 : BitVec 3)
deriving DecidableEq, Repr

/-- An encoded instruction: a 32-bit host command word (30_encoding.md R70) or the 8-bit integer view CTRLV of a
control field (R65). -/
inductive Code where
  | command (word : BitVec 32)
  | control (ctrlv : BitVec 8)
deriving DecidableEq, Repr

end Sys2Proof
end

