-- ==== Sys2Proof/WellFormed.lean ====
section
/-! DEFINITION. Which instruction terms are instructions: every one but a U_OTHER whose modifier is that of SNRM,
DISC or UA (30_encoding.md R64; opcode_table.json: "matched only when no row above matches"). -/

namespace Sys2Proof

/-- MOD = 8*M1 + M2 of a U_OTHER is none of 1 (SNRM), 2 (DISC), 6 (UA) (30_encoding.md R61, R64). -/
def otherModifier (m1 : BitVec 2) (m2 : BitVec 3) : Bool :=
  !(m1 == 0 && (m2 == 1 || m2 == 2 || m2 == 6))

/-- The well-formedness check of an instruction term. -/
def Instr.wellFormed : Instr → Bool
  | .connInd => true
  | .connResp => true
  | .discInd => true
  | .dataReq _ => true
  | .close => true
  | .iFrame _ _ _ => true
  | .rr _ _ => true
  | .rnr _ _ => true
  | .rej _ _ => true
  | .srej _ _ => true
  | .snrm _ => true
  | .disc _ => true
  | .ua _ => true
  | .uOther m1 _ m2 => otherModifier m1 m2

end Sys2Proof
end

