-- ==== Sys2Proof/Decode.lean ====
section
/-! DEFINITION. Bit strings and fields (00_scope.md R9), the control-field formats (30_encoding.md R59 to R65), the
command word (R70, R71), the decoder of both, total and rejecting by name, and after it the encoder. -/

namespace Sys2Proof

/-! ### Bit strings (00_scope.md R9) -/

/-- `bits_n(v)`: the n-bit string of v, most significant bit first. -/
def bitsOf {n : Nat} (v : BitVec n) : Bits := (List.range n).map fun i => v.getMsbD i

/-- `uint(s)`: the unsigned value of s read most significant bit first. -/
def uint (s : Bits) : Nat := s.foldl (fun acc b => 2 * acc + b.toNat) 0

/-- `b[i..j]`, both ends included. -/
def bitRange (b : Bits) (i j : Nat) : Bits := (b.drop i).take (j + 1 - i)

/-- `b[i]`; used only below `|b|`. -/
def bitAt (b : Bits) (i : Nat) : Bool := b.getD i false

/-! ### Control fields in the integer view CTRLV (R65): control bit c[0] is bit 7, c[7] is bit 0 -/

/-- I format `0 sss P rrr` (R59). -/
def iControl (ns : SeqNum) (pf : Bool) (nr : SeqNum) : BitVec 8 :=
  0#1 ++ ns ++ BitVec.ofBool pf ++ nr

/-- S format `10 ss P rrr` (R60). -/
def sControl (code : BitVec 2) (pf : Bool) (nr : SeqNum) : BitVec 8 :=
  2#2 ++ code ++ BitVec.ofBool pf ++ nr

/-- U format `11 mm P mmm` with MOD[4:3] = M1 and MOD[2:0] = M2 (R61). -/
def uControl (mod : BitVec 5) (pf : Bool) : BitVec 8 :=
  3#2 ++ mod.extractLsb' 3 2 ++ BitVec.ofBool pf ++ mod.extractLsb' 0 3

/-- Supervisory codes (R63). -/
def codeRR : BitVec 2 := 0
/-- REJ, S code 01 (R63). -/
def codeREJ : BitVec 2 := 1
/-- RNR, S code 10 (R63). -/
def codeRNR : BitVec 2 := 2
/-- SREJ, S code 11 (R63). -/
def codeSREJ : BitVec 2 := 3

/-- Unnumbered modifiers (R64). -/
def modSNRM : BitVec 5 := 1
/-- DISC, modifier 2 (R64). -/
def modDISC : BitVec 5 := 2
/-- UA, modifier 6 (R64). -/
def modUA : BitVec 5 := 6

/-- N(S) is CTRLV[6:4] (R65). -/
def ctrlNS (c : BitVec 8) : SeqNum := c.extractLsb' 4 3
/-- P/F is CTRLV[3] (R65). -/
def ctrlPF (c : BitVec 8) : Bool := c.getLsbD 3
/-- N(R) is CTRLV[2:0] (R65). -/
def ctrlNR (c : BitVec 8) : SeqNum := c.extractLsb' 0 3
/-- The S code is CTRLV[5:4] (R65). -/
def ctrlS (c : BitVec 8) : BitVec 2 := c.extractLsb' 4 2
/-- M1 is CTRLV[5:4] (R65). -/
def ctrlM1 (c : BitVec 8) : BitVec 2 := c.extractLsb' 4 2
/-- M2 is CTRLV[2:0] (R65). -/
def ctrlM2 (c : BitVec 8) : BitVec 3 := c.extractLsb' 0 3
/-- MOD = uint(M1 ++ M2) (R61). -/
def ctrlMod (c : BitVec 8) : BitVec 5 := ctrlM1 c ++ ctrlM2 c

/-! ### The decoder -/

/-- Why a word is no instruction (60_exceptions.md R150, reasons 3 and 4). -/
inductive Reject where
  /-- OPC is 0, 6 or 7. -/
  | opcode
  /-- Bits 15:3 are not 0, or LEN is not 0 on a command other than DATA_REQ. -/
  | rsvBits
deriving DecidableEq, Repr

/-- OPC, bits 2:0 of the command word (30_encoding.md R70). -/
def cmdOpc (w : BitVec 32) : BitVec 3 := w.extractLsb' 0 3
/-- RSV, bits 15:3. -/
def cmdRsv (w : BitVec 32) : BitVec 13 := w.extractLsb' 3 13
/-- LEN, bits 31:16. -/
def cmdLen (w : BitVec 32) : BitVec 16 := w.extractLsb' 16 16

/-- The command of a command word, the two encoding checks in the order of R72: OPCODE, then RSV_BITS. -/
def decodeCommand (w : BitVec 32) : Except Reject Instr :=
  let opc := cmdOpc w
  if opc = 0 ∨ opc = 6 ∨ opc = 7 then .error .opcode
  else if cmdRsv w ≠ 0 ∨ (opc ≠ 4 ∧ cmdLen w ≠ 0) then .error .rsvBits
  else if opc = 1 then .ok .connInd
  else if opc = 2 then .ok .connResp
  else if opc = 3 then .ok .discInd
  else if opc = 4 then .ok (.dataReq (cmdLen w))
  else .ok .close

/-- The frame kind of a control field: total, no value is illegal (R62, R69). -/
def decodeControl (c : BitVec 8) : Instr :=
  if c.getLsbD 7 = false then .iFrame (ctrlNS c) (ctrlPF c) (ctrlNR c)
  else if c.getLsbD 6 = false then
    if ctrlS c = codeRR then .rr (ctrlPF c) (ctrlNR c)
    else if ctrlS c = codeREJ then .rej (ctrlPF c) (ctrlNR c)
    else if ctrlS c = codeRNR then .rnr (ctrlPF c) (ctrlNR c)
    else .srej (ctrlPF c) (ctrlNR c)
  else if ctrlMod c = modSNRM then .snrm (ctrlPF c)
  else if ctrlMod c = modDISC then .disc (ctrlPF c)
  else if ctrlMod c = modUA then .ua (ctrlPF c)
  else .uOther (ctrlM1 c) (ctrlPF c) (ctrlM2 c)

/-- The decoder of both forms. -/
def decode : Code → Except Reject Instr
  | .command w => decodeCommand w
  | .control c => .ok (decodeControl c)

/-- The instruction of a word numbered as spec/opcode_table.json numbers it. A row of at most 8 bits is a control
field; a longer one is a command word, whose bits above nbits are 0 (log 16). -/
def decodeTableWord (nbits w : Nat) : Option Instr :=
  if 2 ^ nbits ≤ w ∨ 32 < nbits then none
  else if nbits ≤ 8 then some (decodeControl (BitVec.ofNat 8 w))
  else
    match decodeCommand (BitVec.ofNat 32 w) with
    | .ok i => some i
    | .error _ => none

/-! ### The encoder -/

/-- The command word LEN ++ RSV ++ OPC with RSV = 0 (R70). -/
def commandWord (opc : BitVec 3) (len : BitVec 16) : BitVec 32 := len ++ 0#13 ++ opc

/-- The code of an instruction (R65, R70, R71). -/
def encode : Instr → Code
  | .connInd => .command (commandWord 1 0)
  | .connResp => .command (commandWord 2 0)
  | .discInd => .command (commandWord 3 0)
  | .dataReq len => .command (commandWord 4 len)
  | .close => .command (commandWord 5 0)
  | .iFrame ns pf nr => .control (iControl ns pf nr)
  | .rr pf nr => .control (sControl codeRR pf nr)
  | .rnr pf nr => .control (sControl codeRNR pf nr)
  | .rej pf nr => .control (sControl codeREJ pf nr)
  | .srej pf nr => .control (sControl codeSREJ pf nr)
  | .snrm pf => .control (uControl modSNRM pf)
  | .disc pf => .control (uControl modDISC pf)
  | .ua pf => .control (uControl modUA pf)
  | .uOther m1 pf m2 => .control (uControl (m1 ++ m2) pf)

end Sys2Proof
end

