-- ==== Sys2Proof/Config.lean ====
section
/-! DEFINITION. The implementation parameters the spec leaves open (00_scope.md R7), the inputs State.reset samples,
and the free value that answers an `RxAttempt` no scripted answer is left for. -/

namespace Sys2Proof.Config

/-- The parameters that are arguments of the model (00_scope.md R7, D8, D26). No step changes them, so a statement
over every state holds for every value of them (log 2, 3). -/
structure Params where
  /-- MAX_SDU_BYTES, 200..65535. -/
  maxSduBytes : Nat
  /-- UA_PF, the P/F bit of a transmitted UA. -/
  uaPf : Bool
deriving DecidableEq, Repr

/-- The parameters of State.reset. DESIGN CHOICE (log 2, 3): MAX_SDU_BYTES = 400, one instance of the open
parameter (95_test_vectors.md uses it too); UA_PF = 1, the default of R7. -/
def resetParams : Params := { maxSduBytes := 400, uaPf := true }

/-- The STATION_ADDR input State.reset samples. DESIGN CHOICE (log 1). -/
def resetStationAddr : BitVec 8 := 3

/-- The WINDOW_SIZE input State.reset samples: the nominal value of R7. DESIGN CHOICE (log 1). -/
def resetWindowSize : BitVec 4 := 4

/-- FREE VALUE (20_memory.md R42, 93 K20; log 4): what the channel answers to the n-th `RxAttempt` when the list of
answers in State is used up: any bit string, or none. No body: nothing can be proved of a value of it. -/
opaque channelAnswer : Nat → Option Bits

end Sys2Proof.Config
end

