-- ==== Sys2Proof/Machine/State.lean ====
section
/-! DEFINITION. The state of the engine and of its environment as plain data (10_state.md R15, R16; 20_memory.md R40
to R45), the faults and refusals, and the state right after reset (70_reset_and_hazards.md R163). -/

namespace Sys2Proof.Machine

/-- CONN_STATE (10_state.md R25); code 3 is never written (93 K24). -/
inductive ConnState where
  | disconnected | awaitingResponse | connected
deriving DecidableEq, Repr

/-- OP (10_state.md R26): the command being executed; codes 6 and 7 are never written. -/
inductive Op where
  | idle | connInd | connResp | discInd | dataReq | close
deriving DecidableEq, Repr

/-- PHASE (10_state.md R27): the step position inside a command. -/
inductive Phase where
  | none | wait | pollSync | loop
deriving DecidableEq, Repr

/-- RES_CODE (60_exceptions.md R144). -/
inductive ResCode where
  | srvSuccessful | unexpectedFrameReceived | unexpectedUFrameReceived | decodeFailure
deriving DecidableEq, Repr

/-- RES_DIAG_KIND (60_exceptions.md R145); code 3 is never written. -/
inductive DiagKind where
  | none | type | mod
deriving DecidableEq, Repr

/-- CMD_ERR_REASON (60_exceptions.md R150). -/
inductive Reason where
  | none | cfg | closed | opcode | rsvBits | len | sduBusy | sduRange
deriving DecidableEq, Repr

/-- An entry of the TX history (20_memory.md R41, D34). -/
inductive TxEntry where
  | frame (bits : Bits)
  /-- The marker of ChannelClose (41_connection.md R104). -/
  | closed
  /-- The marker of a reset (70_reset_and_hazards.md R163). -/
  | reset
deriving DecidableEq, Repr

/-- The names of the host's read words (20_memory.md R43). -/
inductive ReadName where
  | status | result | config | window | xfer
deriving DecidableEq, Repr

/-- A word a `Read` returned (10_state.md R34, R35). -/
inductive ReadWord where
  | status (w : BitVec 16)
  | result (w : BitVec 32)
  | config (w : BitVec 16)
  | window (w : BitVec 16)
  | xfer (w : BitVec 48)
deriving DecidableEq, Repr

/-- What the environment does next (20_memory.md R43, 00_scope.md R12; log 5). -/
inductive Event where
  /-- The engine and its port are scheduled: the next engine step, or the acceptance of a waiting command. -/
  | turn
  /-- The host offers a command word. -/
  | offer (word : BitVec 32)
  /-- `SduWrite(i, v)`. -/
  | sduWrite (index : Nat) (value : Byte)
  /-- `Read(name)`. -/
  | read (name : ReadName)
  /-- The reset input, with the configuration inputs it samples. -/
  | reset (stationAddr : BitVec 8) (windowSize : BitVec 4)
deriving DecidableEq, Repr

/-- The SDU buffer: written bytes only, indexes strictly rising; an index not listed has no value (20_memory.md
R44). -/
abbrev Memory := List Host.Cell

/-- The state of the engine and its environment. -/
structure State where
  /-- MAX_SDU_BYTES and UA_PF (00_scope.md R7); constant. -/
  params : Config.Params
  /-- STATION_ADDR (R17). -/
  stationAddr : BitVec 8
  /-- W (R18). -/
  w : BitVec 4
  /-- CFG_ERR (R33). -/
  cfgErr : Bool
  /-- VS (R19). -/
  vs : SeqNum
  /-- VR (R22). -/
  vr : SeqNum
  /-- RHS (R20). -/
  rhs : SeqNum
  /-- FB, head first (R23, R45). -/
  fb : List Bits
  /-- CONN_STATE (R25). -/
  connState : ConnState
  /-- OP (R26). -/
  op : Op
  /-- PHASE (R27). -/
  phase : Phase
  /-- SDU_LEN (R28). -/
  sduLen : BitVec 16
  /-- FRAG_TOTAL (R28). -/
  fragTotal : BitVec 16
  /-- FRAG_NEXT (R28). -/
  fragNext : BitVec 16
  /-- RES_CODE (R29). -/
  resCode : ResCode
  /-- RES_VALUE (R29). -/
  resValue : BitVec 8
  /-- RES_DIAG_KIND (R29). -/
  resDiagKind : DiagKind
  /-- RES_DIAG (R29). -/
  resDiag : BitVec 5
  /-- RESULT_VALID (R30). -/
  resultValid : Bool
  /-- BUSY (R31). -/
  busy : Bool
  /-- CLOSED (R32). -/
  closed : Bool
  /-- CMD_ERR (R33). -/
  cmdErr : Bool
  /-- CMD_ERR_REASON (R33). -/
  cmdErrReason : Reason
  /-- The SDU buffer (R44). -/
  sdu : Memory
  /-- The TX history, oldest first (R41). -/
  tx : List TxEntry
  /-- MODEL's own: command words waiting at the host port, oldest first (R43, R169; log 6). -/
  port : List (BitVec 32)
  /-- MODEL's own: the channel's next answers to `RxAttempt` (R42; log 4). -/
  rx : List (Option Bits)
  /-- MODEL's own: answers drawn so far, the argument of the free value (log 4). -/
  rxDrawn : Nat
  /-- MODEL's own: the environment's next events, oldest first (R12; log 5). -/
  env : List Event
  /-- MODEL's own: the words `Read` returned, oldest first (R43; log 8). -/
  reads : List ReadWord
deriving DecidableEq, Repr

/-- The reasons the machine stops. -/
inductive Fault where
  /-- `UnwrittenSduByte` (20_memory.md R44, 93 K10): the first transmission of a fragment read an SDU byte that
  nothing has written since reset. Raised by DATA_REQ's loop step. Safe: the chip would send some byte. -/
  | unwrittenSduByte
  /-- `FrameBufferBounds` (20_memory.md R45, 93 K11): a push on a full FB, a drop beyond its length, an index out of
  range. Raised by the FB operations; unreachable from reset. Safe. -/
  | frameBufferBounds
  /-- BUSY = 1 with an OP/PHASE pair for which no rule gives an engine step (10_state.md R27; log 12). Raised by the
  engine step; unreachable from reset. Safe. -/
  | noEngineStep
deriving DecidableEq, Repr

/-- The reasons the model has no meaning for an instruction. -/
inductive Refusal where
  /-- The instruction has no meaning in the model yet. Raised by exec's refused arms only (there are none). Safe. -/
  | notModelled (mnemonic : String)
deriving DecidableEq, Repr

/-- What an instruction or a step answers. -/
abbrev StepResult := Host.Outcome State Fault Refusal

/-- The machine right after reset (70_reset_and_hazards.md R163, 10_state.md R16), with the parameters and inputs of
Config (log 1, 2, 3), its environment empty (log 4, 5, 6, 8), and the RESET marker of this reset in the TX
history. -/
def State.reset : State where
  params := Config.resetParams
  stationAddr := Config.resetStationAddr
  w := Config.resetWindowSize
  cfgErr := false
  vs := 0
  vr := 0
  rhs := 4
  fb := []
  connState := .disconnected
  op := .idle
  phase := .none
  sduLen := 0
  fragTotal := 0
  fragNext := 0
  resCode := .srvSuccessful
  resValue := 0
  resDiagKind := .none
  resDiag := 0
  resultValid := false
  busy := false
  closed := false
  cmdErr := false
  cmdErrReason := .none
  sdu := []
  tx := [.reset]
  port := []
  rx := []
  rxDrawn := 0
  env := []
  reads := []

end Sys2Proof.Machine
end

