-- ==== Sys2Proof/Machine/Operands.lean ====
section
/-! DEFINITION. The operands the rules compute: the window's sequence arithmetic (10_state.md R21, 43_transfer_engine.md
R123, R129), the SDU buffer's reads (20_memory.md R44), fragments and their information fields (R119, R120,
30_encoding.md R67). -/

namespace Sys2Proof.Machine

/-! ### Sequence arithmetic modulo 8 -/

/-- W mod 8 as a sequence number (R20). -/
def windowSeq (s : State) : SeqNum := s.w.setWidth 3

/-- The left edge `LE = RHS -8 W` (10_state.md R21). -/
def leftEdge (s : State) : SeqNum := s.rhs - windowSeq s

/-- `off = VS -8 LE` (10_state.md R24, 43_transfer_engine.md R123). -/
def windowOffset (s : State) : Nat := (s.vs - leftEdge s).toNat

/-- The acknowledged count `c = nr -8 LE`, 0..7 (43_transfer_engine.md R129). -/
def ackCount (s : State) (nr : SeqNum) : Nat := (nr - leftEdge s).toNat

/-! ### The SDU buffer -/

/-- The byte listed at index i, if any. -/
def memoryRead : Memory → Nat → Option Byte
  | [], _ => none
  | (a, v) :: m, i => if a = i then some v else memoryRead m i

/-- The k bytes at indexes i, i+1, …; none if one of them has no value. -/
def memoryRange (m : Memory) : Nat → Nat → Option (List Byte)
  | _, 0 => some []
  | i, k + 1 =>
    match memoryRead m i, memoryRange m (i + 1) k with
    | some v, some vs => some (v :: vs)
    | _, _ => none

/-- `SduRead(i)`: the byte last written at index i since reset, if one was (20_memory.md R44). -/
def sduRead (s : State) (i : Nat) : Option Byte := memoryRead s.sdu i

/-! ### Fragments -/

/-- MAX_INFO_BYTES, the maximum information field before bit-encoding (00_scope.md R7). -/
def maxInfoBytes : Nat := 64

/-- `F = ceil(L / 64) = (L + 63) div 64` (43_transfer_engine.md R120). -/
def fragmentCount (len : BitVec 16) : BitVec 16 :=
  BitVec.ofNat 16 ((len.toNat + (maxInfoBytes - 1)) / maxInfoBytes)

/-- The first SDU index of fragment i, `64·i` (43_transfer_engine.md R119). -/
def fragmentStart (i : Nat) : Nat := maxInfoBytes * i

/-- `k_i = min(64, SDU_LEN − 64·i)`, the byte count of fragment i (R119). -/
def fragmentSize (len : BitVec 16) (i : Nat) : Nat := min maxInfoBytes (len.toNat - fragmentStart i)

/-- The bytes of fragment i; none if one of them is unwritten (R119, 20_memory.md R44). -/
def fragmentBytes (s : State) (i : Nat) : Option (List Byte) :=
  memoryRange s.sdu (fragmentStart i) (fragmentSize s.sduLen i)

/-- `INFO = bits_8(d_0) ++ … ++ bits_8(d_{k−1})` (30_encoding.md R67). -/
def infoBits : List Byte → Bits
  | [] => []
  | d :: ds => bitsOf d ++ infoBits ds

end Sys2Proof.Machine
end

