-- ==== Sys2Proof/Machine/Flags.lean ====
section
/-! DEFINITION. The conditions and flags the rules compute. The engine has no condition codes (10_state.md R36); its
flags are the status bits, the window tests of the transfer engine and the two level outputs (60_exceptions.md
R152). -/

namespace Sys2Proof.Machine

/-- CFG_ERR as reset writes it: W is outside 1..7 (10_state.md R33, 70_reset_and_hazards.md R163). -/
def windowSizeIllegal (w : BitVec 4) : Bool := decide (w.toNat < 1 ∨ 7 < w.toNat)

/-- The window is open: `VS != RHS` (43_transfer_engine.md R123). -/
def windowOpen (s : State) : Bool := s.vs != s.rhs

/-- A buffered frame is at or after VS: `off < FB.len` (R123, 90_conflicts.md C6). -/
def resendDue (s : State) : Bool := decide (windowOffset s < s.fb.length)

/-- A never-sent fragment remains: `FRAG_NEXT < FRAG_TOTAL` (R123). -/
def unsentRemain (s : State) : Bool := decide (s.fragNext.toNat < s.fragTotal.toNat)

/-- The completion test of a loop step: `FB.len = 0 and FRAG_NEXT = FRAG_TOTAL` (R122, R135). -/
def transferDone (s : State) : Bool := s.fb.isEmpty && s.fragNext == s.fragTotal

/-- The final bit: the fragment about to be sent is the last, `i = FRAG_TOTAL − 1` (R124, R126). -/
def finalBit (s : State) : Bool := s.fragNext == s.fragTotal - 1

/-- The output `done = RESULT_VALID` (60_exceptions.md R152). -/
def outputDone (s : State) : Bool := s.resultValid

/-- The output `err = CMD_ERR or CFG_ERR` (R152). -/
def outputErr (s : State) : Bool := s.cmdErr || s.cfgErr

end Sys2Proof.Machine
end

