-- ==== Sys2Proof/Machine/ReadWords.lean ====
section
/-! DEFINITION. The host's read words (10_state.md R34, R35): the codes of the register fields and the five layouts.
Reading has no side effect. -/

namespace Sys2Proof.Machine

/-- CONN_STATE's code (10_state.md R25). -/
def connCode : ConnState → BitVec 2
  | .disconnected => 0
  | .awaitingResponse => 1
  | .connected => 2

/-- OP's code (R26): the opcode of the command. -/
def opCode : Op → BitVec 3
  | .idle => 0
  | .connInd => 1
  | .connResp => 2
  | .discInd => 3
  | .dataReq => 4
  | .close => 5

/-- PHASE's code (R27). -/
def phaseCode : Phase → BitVec 2
  | .none => 0
  | .wait => 1
  | .pollSync => 2
  | .loop => 3

/-- RES_CODE's code (60_exceptions.md R144). -/
def resCodeCode : ResCode → BitVec 2
  | .srvSuccessful => 0
  | .unexpectedFrameReceived => 1
  | .unexpectedUFrameReceived => 2
  | .decodeFailure => 3

/-- RES_DIAG_KIND's code (R145). -/
def diagKindCode : DiagKind → BitVec 2
  | .none => 0
  | .type => 1
  | .mod => 2

/-- CMD_ERR_REASON's code (R150). -/
def reasonCode : Reason → BitVec 3
  | .none => 0
  | .cfg => 1
  | .closed => 2
  | .opcode => 3
  | .rsvBits => 4
  | .len => 5
  | .sduBusy => 6
  | .sduRange => 7

/-- STATUS (10_state.md R34). -/
def statusWord (s : State) : BitVec 16 :=
  0#1 ++ reasonCode s.cmdErrReason ++ phaseCode s.phase ++ opCode s.op ++ connCode s.connState ++
    BitVec.ofBool s.cfgErr ++ BitVec.ofBool s.cmdErr ++ BitVec.ofBool s.closed ++ BitVec.ofBool s.resultValid ++
    BitVec.ofBool s.busy

/-- RESULT (R34). -/
def resultWord (s : State) : BitVec 32 :=
  0#8 ++ s.resValue ++ 0#7 ++ s.resDiag ++ diagKindCode s.resDiagKind ++ resCodeCode s.resCode

/-- CONFIG (R34). -/
def configWord (s : State) : BitVec 16 := 0#4 ++ s.w ++ s.stationAddr

/-- WINDOW (R35). -/
def windowWord (s : State) : BitVec 16 :=
  0#1 ++ BitVec.ofNat 3 s.fb.length ++ s.vr ++ leftEdge s ++ s.rhs ++ s.vs

/-- XFER (R35). -/
def xferWord (s : State) : BitVec 48 := s.fragNext ++ s.fragTotal ++ s.sduLen

/-- The word a `Read(name)` returns (20_memory.md R43). -/
def readWord (s : State) : ReadName → ReadWord
  | .status => .status (statusWord s)
  | .result => .result (resultWord s)
  | .config => .config (configWord s)
  | .window => .window (windowWord s)
  | .xfer => .xfer (xferWord s)

end Sys2Proof.Machine
end

