-- ==== Sys2Proof/Machine/Frames.lean ====
section
/-! DEFINITION. The frame model (40_frame_model.md R81 to R92): the encoders BuildU and BuildI, the field parsers, and
the total classifier. Pure functions: they read their arguments and STATION_ADDR and write no state (R81). -/

namespace Sys2Proof.Machine

/-! ### Encoders -/

/-- FLAG, `01111110` (30_encoding.md R56). -/
def flag : Bits := [false, true, true, true, true, true, true, false]

/-- `FLAG ++ ADDR ++ CTRL ++ INFO ++ FLAG` (30_encoding.md R56, R57). -/
def buildFrame (addr : BitVec 8) (ctrl : BitVec 8) (info : Bits) : Bits :=
  flag ++ bitsOf addr ++ bitsOf ctrl ++ info ++ flag

/-- `BuildU(mod, pf)` at STATION_ADDR = addr (40_frame_model.md R82). -/
def buildU (addr : BitVec 8) (mod : BitVec 5) (pf : Bool) : Bits := buildFrame addr (uControl mod pf) []

/-- `BuildI(info, ns, pf, nr)` at STATION_ADDR = addr (R83). -/
def buildI (addr : BitVec 8) (info : Bits) (ns : SeqNum) (pf : Bool) (nr : SeqNum) : Bits :=
  buildFrame addr (iControl ns pf nr) info

/-! ### Field parsers -/

/-- The class of a frame (30_encoding.md R62). -/
inductive FrameType where
  | i | s | u
deriving DecidableEq, Repr

/-- The type code of a diagnostic: I = 0, S = 1, U = 2, and 3 = undeterminable (R62, 60_exceptions.md R145). -/
def typeCode : Option FrameType → BitVec 5
  | some .i => 0
  | some .s => 1
  | some .u => 2
  | none => 3

/-- The type of a control field (R62): c[0] = 0 is I, 10 is S, 11 is U. -/
def ctrlType (c : BitVec 8) : FrameType :=
  if c.getLsbD 7 = false then .i else if c.getLsbD 6 = false then .s else .u

/-- CTRLV of a frame, `uint(b[16..23])` (30_encoding.md R65). -/
def ctrlOf (b : Bits) : BitVec 8 := BitVec.ofNat 8 (uint (bitRange b 16 23))

/-- `ParseAddress(b) = uint(b[8..15])` (40_frame_model.md R84). -/
def parseAddress (b : Bits) : BitVec 8 := BitVec.ofNat 8 (uint (bitRange b 8 15))

/-- `ParseFrameType(b)` (R85). -/
def parseFrameType (b : Bits) : FrameType :=
  if bitAt b 16 = false then .i else if bitAt b 17 = false then .s else .u

/-- `ParseModifier(b)`, the modifier of a U-frame; P/F is no part of it (R86). -/
def parseModifier (b : Bits) : BitVec 5 := ctrlMod (ctrlOf b)

/-- `ParseAckNumber(b)`, N(R) of an S- or I-frame (R87). -/
def parseAckNumber (b : Bits) : SeqNum := ctrlNR (ctrlOf b)

/-- `ParsePF(b)`, the poll/final bit (R88). -/
def parsePF (b : Bits) : Bool := ctrlPF (ctrlOf b)

/-- `ParseSCode(b)`, the supervisory code (R89). -/
def parseSCode (b : Bits) : BitVec 2 := ctrlS (ctrlOf b)

/-! ### The classifier -/

/-- What `Classify` answers (R90). `Malformed` carries no type when it is undeterminable. -/
inductive Classified where
  | notMine
  | malformed (addr : BitVec 8) (t : Option FrameType)
  | frame (addr : BitVec 8) (t : FrameType) (ctrl : BitVec 8) (info : Bits)
deriving DecidableEq, Repr

/-- `Classify(b)` at STATION_ADDR = addr, in the order of R90. Delimiters and extra bits are not checked (R91). -/
def classify (addr : BitVec 8) (b : Bits) : Classified :=
  let n := b.length
  if n < 16 then .notMine
  else if parseAddress b ≠ addr then .notMine
  else if n < 17 then .malformed (parseAddress b) none
  else if bitAt b 16 = true ∧ n < 18 then .malformed (parseAddress b) none
  else if n < 32 then .malformed (parseAddress b) (some (parseFrameType b))
  else .frame (parseAddress b) (parseFrameType b) (ctrlOf b) (bitRange b 24 (n - 9))

end Sys2Proof.Machine
end

