-- ==== Sys2Proof/Machine/Reception.lean ====
section
/-! DEFINITION. The frame reception filter (42_reception_filter.md R111 to R117): ReceiveFrame, IsRR and ReceiveAck, each
the action of one engine step on the answer of one `RxAttempt`. Neither writes state (R117). -/

namespace Sys2Proof.Machine

/-- What `ReceiveFrame` answers (R111). -/
inductive Received where
  | retry
  | malformed (addr : BitVec 8) (t : Option FrameType)
  | frame (addr : BitVec 8) (t : FrameType) (ctrl : BitVec 8) (info : Bits)
deriving DecidableEq, Repr

/-- `ReceiveFrame(x)` (R111): no frame, or one not addressed to this station, is Retry; the channel's null is no
frame (R116). -/
def receiveFrame (addr : BitVec 8) : Option Bits → Received
  | none => .retry
  | some b =>
    match classify addr b with
    | .notMine => .retry
    | .malformed a t => .malformed a t
    | .frame a t ctrl info => .frame a t ctrl info

/-- `IsRR(c)` (R113). -/
def isRR : Received → Bool
  | .frame _ t ctrl _ => t == .s && ctrlS ctrl == codeRR
  | _ => false

/-- An RR as `ReceiveAck` reports it (R114). -/
structure Ack where
  pf : Bool
  nr : SeqNum
deriving DecidableEq, Repr

/-- `ReceiveAck` on what `ReceiveFrame` answered (R114); `none` is NoAck. -/
def ackOf : Received → Option Ack
  | .frame a t ctrl info =>
    if isRR (.frame a t ctrl info) then some { pf := ctrlPF ctrl, nr := ctrlNR ctrl } else none
  | _ => none

/-- `ReceiveAck(x)` on the answer of one `RxAttempt` (R114, R115). -/
def receiveAck (addr : BitVec 8) (x : Option Bits) : Option Ack := ackOf (receiveFrame addr x)

end Sys2Proof.Machine
end

