-- ==== Sys2Proof/Machine/Ops.lean ====
section
/-! DEFINITION. The shared operations over the state: storage (20_memory.md R44, R45), the ports (R41, R42, R43),
completion and refusal (60_exceptions.md R146, R149), reset (70_reset_and_hazards.md R163), command acceptance
(30_encoding.md R72) and the common shape of a command's execution. The engine takes no exceptions and has no return from
one (60_exceptions.md R143, R156, R157): completion with a Result code and refusal are its whole error model. -/

namespace Sys2Proof.Machine

/-! ### The SDU buffer (20_memory.md R44) -/

/-- The canonical form of the SDU buffer: indexes strictly rising. -/
abbrev memoryWf (m : Memory) : Prop := m.Pairwise fun x y => x.1 < y.1

/-- The buffer with byte v at index i, in canonical form. -/
def memoryWrite : Memory → Nat → Byte → Memory
  | [], i, v => [(i, v)]
  | (a, x) :: m, i, v =>
    if i < a then (i, v) :: (a, x) :: m
    else if i = a then (i, v) :: m
    else (a, x) :: memoryWrite m i v

/-! ### Ports (20_memory.md R41, R42) -/

/-- `Transmit(f)`: f joins the TX history; it never fails (R41). -/
def transmit (f : Bits) (s : State) : State := { s with tx := s.tx ++ [.frame f] }

/-- `ChannelClose()`: the CLOSED marker joins the TX history (41_connection.md R104). -/
def channelClose (s : State) : State := { s with tx := s.tx ++ [.closed] }

/-- `RxAttempt()`: the channel's next answer, consumed (R42); the free value when none is listed (log 4). -/
def rxAttempt (s : State) : Option Bits × State :=
  match s.rx with
  | x :: xs => (x, { s with rx := xs, rxDrawn := s.rxDrawn + 1 })
  | [] => (Config.channelAnswer s.rxDrawn, { s with rxDrawn := s.rxDrawn + 1 })

/-! ### The frame buffer (20_memory.md R45) -/

/-- `FB.push(f)`; requires `FB.len < W`. -/
def fbPush (f : Bits) (s : State) : Except Fault State :=
  if s.fb.length < s.w.toNat then .ok { s with fb := s.fb ++ [f] } else .error .frameBufferBounds

/-- `FB.dropFront(n)`; requires `n ≤ FB.len`. -/
def fbDropFront (n : Nat) (s : State) : Except Fault State :=
  if n ≤ s.fb.length then .ok { s with fb := s.fb.drop n } else .error .frameBufferBounds

/-- `FB[k]`; requires `k < FB.len`. -/
def fbAt (s : State) (k : Nat) : Except Fault Bits :=
  match s.fb[k]? with
  | some f => .ok f
  | none => .error .frameBufferBounds

/-! ### Completion and refusal -/

/-- `complete(code, value, kind, diag)` (60_exceptions.md R146). -/
def complete (code : ResCode) (value : BitVec 8) (kind : DiagKind) (diag : BitVec 5) (s : State) : State :=
  { s with
    resCode := code, resValue := value, resDiagKind := kind, resDiag := diag, resultValid := true
    op := .idle, phase := .none, busy := false }

/-- `refuse(reason)` (R149). -/
def refuse (reason : Reason) (s : State) : State := { s with cmdErr := true, cmdErrReason := reason }

/-! ### Reset -/

/-- Reset with the sampled inputs (70_reset_and_hazards.md R163). The environment's fields are no registers and keep
their values (R165; log 6). -/
def applyReset (stationAddr : BitVec 8) (windowSize : BitVec 4) (s : State) : State :=
  { s with
    stationAddr := stationAddr, w := windowSize, cfgErr := windowSizeIllegal windowSize
    vs := 0, vr := 0, rhs := windowSize.setWidth 3, fb := []
    connState := .disconnected
    op := .idle, phase := .none, busy := false
    sduLen := 0, fragTotal := 0, fragNext := 0
    resCode := .srvSuccessful, resValue := 0, resDiagKind := .none, resDiag := 0, resultValid := false
    closed := false, cmdErr := false, cmdErrReason := .none
    sdu := []
    tx := s.tx ++ [.reset] }

/-! ### Host transactions other than commands (20_memory.md R43) -/

/-- `SduWrite(i, v)` (R44): refused while busy, then out of range, else written (60_exceptions.md R153). -/
def sduWrite (i : Nat) (v : Byte) (s : State) : State :=
  if s.busy then refuse .sduBusy s
  else if s.params.maxSduBytes ≤ i then refuse .sduRange s
  else { s with sdu := memoryWrite s.sdu i v }

/-- `Read(name)`: the word is returned to the host; nothing else changes (R43, R50). -/
def hostRead (name : ReadName) (s : State) : State := { s with reads := s.reads ++ [readWord s name] }

/-- A command word is offered: it waits at the port (R43, 70_reset_and_hazards.md R169; log 6). -/
def hostOffer (word : BitVec 32) (s : State) : State := { s with port := s.port ++ [word] }

/-! ### Command acceptance (30_encoding.md R72) -/

/-- The checks of R72 in their order: CFG, CLOSED, then the cause found in the word, if any; else `start`. -/
def screenCommand (cause : Option Reason) (start : State → State) (s : State) : State :=
  if s.cfgErr then refuse .cfg s
  else if s.closed then refuse .closed s
  else
    match cause with
    | some r => refuse r s
    | none => start s

/-- The acceptance of a command: `OP <- op ; BUSY <- 1 ; RESULT_VALID <- 0` and PHASE (R72). -/
def startCommand (op : Op) (phase : Phase) (s : State) : State :=
  { s with op := op, busy := true, resultValid := false, phase := phase }

/-- One execution of a command: its acceptance while the port is ready, its engine step while it is the command in OP,
no effect (held at the port, 20_memory.md R43) while another command runs (log 9). -/
def runCommand (op : Op) (accept : State → State) (engineStep : State → StepResult) (s : State) : StepResult :=
  if s.busy then
    if s.op = op then engineStep s else .next s
  else .next (accept s)

/-- An engine step's answer as an outcome of exec. -/
def outcome : Except Fault State → StepResult
  | .ok s => .next s
  | .error f => .fault f

end Sys2Proof.Machine
end

