-- ==== Sys2Proof/Machine/Connection.lean ====
section
/-! DEFINITION. The connection state machine (41_connection.md R98 to R106): CONN_IND, CONN_RESP, DISC_IND and CLOSE. No
command is gated on CONN_STATE (R98, 90_conflicts.md C5). -/

namespace Sys2Proof.Machine

/-- The action of an indication's engine step on what was received (R100, R102): `want` is the modifier it waits for,
`reached` the connection state its success writes. The priority is that of 60_exceptions.md R154. -/
def indicationOn (want : BitVec 5) (reached : ConnState) (r : Received) (s : State) : State :=
  match r with
  | .retry => s
  | .malformed a t => complete .decodeFailure a .type (typeCode t) s
  | .frame a .i _ _ => complete .unexpectedFrameReceived a .type (typeCode (some .i)) s
  | .frame a .s _ _ => complete .unexpectedFrameReceived a .type (typeCode (some .s)) s
  | .frame a .u ctrl _ =>
    if ctrlMod ctrl = want then complete .srvSuccessful a .none 0 { s with connState := reached }
    else complete .unexpectedUFrameReceived a .mod (ctrlMod ctrl) s

/-- CONN_IND's step on what was received: it waits for SNRM (R100). -/
def connIndOn (r : Received) (s : State) : State := indicationOn modSNRM .awaitingResponse r s

/-- DISC_IND's step on what was received: it waits for DISC (R102) and transmits nothing (R103). -/
def discIndOn (r : Received) (s : State) : State := indicationOn modDISC .disconnected r s

/-- CONN_IND's engine step (R100): one `RxAttempt` in PHASE = WAIT. -/
def connIndStep (s : State) : StepResult :=
  match s.phase with
  | .wait => .next (connIndOn (receiveFrame s.stationAddr (rxAttempt s).1) (rxAttempt s).2)
  | _ => .fault .noEngineStep

/-- DISC_IND's engine step (R102). -/
def discIndStep (s : State) : StepResult :=
  match s.phase with
  | .wait => .next (discIndOn (receiveFrame s.stationAddr (rxAttempt s).1) (rxAttempt s).2)
  | _ => .fault .noEngineStep

/-- CONN_RESP's one engine step (R101): UA transmitted, the window renumbered, CONNECTED. -/
def connRespStep (s : State) : State :=
  let s1 := transmit (buildU s.stationAddr modUA s.params.uaPf) s
  complete .srvSuccessful s.stationAddr .none 0
    { s1 with vs := 0, vr := 0, rhs := windowSeq s, fb := [], connState := .connected }

/-- CLOSE's one engine step (R104). -/
def closeStep (s : State) : State :=
  complete .srvSuccessful 0 .none 0 { channelClose s with closed := true, connState := .disconnected }

/-- CONN_IND (R99, R100). -/
def execConnInd (s : State) : StepResult :=
  runCommand .connInd (screenCommand none (startCommand .connInd .wait)) connIndStep s

/-- CONN_RESP (R101). -/
def execConnResp (s : State) : StepResult :=
  runCommand .connResp (screenCommand none (startCommand .connResp .none)) (fun t => .next (connRespStep t)) s

/-- DISC_IND (R99, R102). -/
def execDiscInd (s : State) : StepResult :=
  runCommand .discInd (screenCommand none (startCommand .discInd .wait)) discIndStep s

/-- CLOSE (R104). -/
def execClose (s : State) : StepResult :=
  runCommand .close (screenCommand none (startCommand .close .none)) (fun t => .next (closeStep t)) s

end Sys2Proof.Machine
end

