-- ==== Sys2Proof/Machine/Transfer.lean ====
section
/-! DEFINITION. The sliding-window transfer engine (43_transfer_engine.md R118 to R142): DATA_REQ's acceptance, poll
synchronisation, and the transmit/acknowledge loop. -/

namespace Sys2Proof.Machine

/-- `DataReqAccept(L)` (R118), after the acceptance of R72. The window is not reset (R136). -/
def dataReqAccept (len : BitVec 16) (s : State) : State :=
  { startCommand .dataReq .pollSync s with sduLen := len, fragTotal := fragmentCount len, fragNext := 0 }

/-- The LEN check of R72: more than MAX_SDU_BYTES is refused. -/
def lenCause (len : BitVec 16) (s : State) : Option Reason :=
  if s.params.maxSduBytes < len.toNat then some .len else none

/-- The POLL_SYNC step on what was received (R121): only an RR with P/F = 1 starts the loop; its N(R) is not used. -/
def pollSyncOn (a : Option Ack) (s : State) : State :=
  match a with
  | some { pf := true, nr := _ } => { s with phase := .loop }
  | _ => s

/-- `SendNew` (R124): fragment FRAG_NEXT is built, transmitted and pushed. -/
def sendNew (s : State) : Except Fault State :=
  match fragmentBytes s s.fragNext.toNat with
  | none => .error .unwrittenSduByte
  | some bytes =>
    let f := buildI s.stationAddr (infoBits bytes) s.vs (finalBit s) s.vr
    match fbPush f (transmit f s) with
    | .ok t => .ok { t with fragNext := s.fragNext + 1 }
    | .error e => .error e

/-- `Retransmit(off)` (R125): the stored frame again, bit for bit; FB is not pushed. -/
def retransmit (off : Nat) (s : State) : Except Fault State :=
  match fbAt s off with
  | .ok f => .ok (transmit f s)
  | .error e => .error e

/-- `TxSubStep` (R123, 90_conflicts.md C6): at most one frame, then VS advances. -/
def txSubStep (s : State) : Except Fault State :=
  if windowOpen s && (resendDue s || unsentRemain s) then
    match (if resendDue s then retransmit (windowOffset s) s else sendNew s) with
    | .ok t => .ok { t with vs := s.vs + 1 }
    | .error e => .error e
  else .ok s

/-- `AckSubStep(a)` (R128 to R134): an N(R) outside the window is ignored (R130), one equal to the left edge goes back
(R133), any other retires frames (R131) and realigns VS if it was passed (R132). P/F is not read (R134). -/
def ackSubStep (a : Option Ack) (s : State) : Except Fault State :=
  match a with
  | none => .ok s
  | some a =>
    let c := ackCount s a.nr
    if s.fb.length < c then .ok s
    else if c = 0 then .ok { s with vs := leftEdge s }
    else
      match fbDropFront c s with
      | .ok t =>
        .ok { t with rhs := s.rhs + BitVec.ofNat 3 c, vs := if windowOffset s < c then a.nr else s.vs }
      | .error e => .error e

/-- `LoopStep` on what its `RxAttempt` received (R122): the completion test, then the transmit sub-step, then the
acknowledgment sub-step. -/
def loopStep (a : Option Ack) (s : State) : Except Fault State :=
  if transferDone s then .ok (complete .srvSuccessful 0 .none 0 s)
  else
    match txSubStep s with
    | .ok t => ackSubStep a t
    | .error e => .error e

/-- DATA_REQ's engine step (R121, R122): the loop step that finds the work done makes no `RxAttempt`. -/
def dataReqStep (s : State) : StepResult :=
  match s.phase with
  | .pollSync => .next (pollSyncOn (receiveAck s.stationAddr (rxAttempt s).1) (rxAttempt s).2)
  | .loop =>
    if transferDone s then outcome (loopStep none s)
    else outcome (loopStep (receiveAck s.stationAddr (rxAttempt s).1) (rxAttempt s).2)
  | _ => .fault .noEngineStep

/-- DATA_REQ (R118 to R137). While it runs, its engine steps read SDU_LEN, not the word's LEN (log 9). -/
def execDataReq (len : BitVec 16) (s : State) : StepResult :=
  runCommand .dataReq (screenCommand (lenCause len s) (dataReqAccept len)) dataReqStep s

end Sys2Proof.Machine
end

