-- ==== Sys2Proof/Machine/FrameKinds.lean ====
section
/-! DEFINITION. The frame kinds (30_encoding.md R62 to R69): what the engine does with a well-formed frame addressed to
this station, by the command and phase that made the receive attempt. -/

namespace Sys2Proof.Machine

/-- The engine's next step makes an `RxAttempt`: CONN_IND or DISC_IND in WAIT, DATA_REQ in POLL_SYNC, DATA_REQ in LOOP
with work left (41_connection.md R100, R102, 43_transfer_engine.md R121, R122). -/
def rxDue (s : State) : Bool :=
  s.busy &&
    match s.op, s.phase with
    | .connInd, .wait => true
    | .discInd, .wait => true
    | .dataReq, .pollSync => true
    | .dataReq, .loop => !transferDone s
    | _, _ => false

/-- The engine step whose `RxAttempt` received r (R100, R102, R121, R122). In a state whose step makes none it changes
nothing. -/
def onReceived (r : Received) (s : State) : StepResult :=
  match s.op, s.phase with
  | .connInd, .wait => .next (connIndOn r s)
  | .discInd, .wait => .next (discIndOn r s)
  | .dataReq, .pollSync => .next (pollSyncOn (ackOf r) s)
  | .dataReq, .loop => outcome (loopStep (ackOf r) s)
  | _, _ => .next s

/-- A well-formed frame with this control field, addressed to this station, answers the engine's `RxAttempt`. Where
the engine makes none, no frame is received and nothing changes (70_reset_and_hazards.md R164; log 11). -/
def frameArrives (ctrl : BitVec 8) (s : State) : StepResult :=
  if rxDue s then onReceived (.frame s.stationAddr (ctrlType ctrl) ctrl []) s else .next s

/-- I: never consumed on reception; the wrong kind for an indication (R100), discarded in DATA_REQ (R115). -/
def execIFrame (ns : SeqNum) (pf : Bool) (nr : SeqNum) (s : State) : StepResult :=
  frameArrives (iControl ns pf nr) s

/-- RR: the poll (R121) and the acknowledgment (R128) of DATA_REQ; the wrong kind for an indication. -/
def execRR (pf : Bool) (nr : SeqNum) (s : State) : StepResult := frameArrives (sControl codeRR pf nr) s

/-- RNR: not implemented by the source, "not RR" everywhere (R63, R69). -/
def execRNR (pf : Bool) (nr : SeqNum) (s : State) : StepResult := frameArrives (sControl codeRNR pf nr) s

/-- REJ: as RNR (R63, R69). -/
def execREJ (pf : Bool) (nr : SeqNum) (s : State) : StepResult := frameArrives (sControl codeREJ pf nr) s

/-- SREJ: as RNR (R63, R69). -/
def execSREJ (pf : Bool) (nr : SeqNum) (s : State) : StepResult := frameArrives (sControl codeSREJ pf nr) s

/-- SNRM: completes CONN_IND (R100); its P/F is ignored (R86). -/
def execSNRM (pf : Bool) (s : State) : StepResult := frameArrives (uControl modSNRM pf) s

/-- DISC: completes DISC_IND (R102). -/
def execDISC (pf : Bool) (s : State) : StepResult := frameArrives (uControl modDISC pf) s

/-- UA: no command waits for one; an unexpected U-frame for an indication (R100, R102), discarded in DATA_REQ. -/
def execUA (pf : Bool) (s : State) : StepResult := frameArrives (uControl modUA pf) s

/-- U_OTHER: an unexpected U-frame with its own modifier as the diagnostic (R69, R145). -/
def execUOther (m1 : BitVec 2) (pf : Bool) (m2 : BitVec 3) (s : State) : StepResult :=
  frameArrives (uControl (m1 ++ m2) pf) s

end Sys2Proof.Machine
end

