-- ==== Sys2Proof/Machine/Dispatch.lean ====
section
/-! DEFINITION. exec: one arm per instruction of spec/opcode_table.json, each one call of its meaning. -/

namespace Sys2Proof.Machine

def exec (i : Instr) (s : State) : Host.Outcome State Fault Refusal :=
  match i with
  -- host commands (30_encoding.md R71)
  | .connInd => Sys2Proof.Machine.execConnInd s
  | .connResp => Sys2Proof.Machine.execConnResp s
  | .discInd => Sys2Proof.Machine.execDiscInd s
  | .dataReq len => Sys2Proof.Machine.execDataReq len s
  | .close => Sys2Proof.Machine.execClose s
  -- frame kinds (30_encoding.md R62 to R65)
  | .iFrame ns pf nr => Sys2Proof.Machine.execIFrame ns pf nr s
  | .rr pf nr => Sys2Proof.Machine.execRR pf nr s
  | .rnr pf nr => Sys2Proof.Machine.execRNR pf nr s
  | .rej pf nr => Sys2Proof.Machine.execREJ pf nr s
  | .srej pf nr => Sys2Proof.Machine.execSREJ pf nr s
  | .snrm pf => Sys2Proof.Machine.execSNRM pf s
  | .disc pf => Sys2Proof.Machine.execDISC pf s
  | .ua pf => Sys2Proof.Machine.execUA pf s
  | .uOther m1 pf m2 => Sys2Proof.Machine.execUOther m1 pf m2 s

end Sys2Proof.Machine
end

