-- ==== Sys2Proof/Machine/Sequencer.lean ====
section
/-! DEFINITION. What runs next (00_scope.md R12, 10_state.md R26, 20_memory.md R43): where the next instruction comes
from (OP and the RX port while BUSY = 1, the host port while BUSY = 0) and the environment's other transactions. -/

namespace Sys2Proof.Machine

/-- The command in progress, as OP holds it (10_state.md R26). -/
def runningCommand (s : State) : Option Instr :=
  match s.op with
  | .idle => none
  | .connInd => some .connInd
  | .connResp => some .connResp
  | .discInd => some .discInd
  | .dataReq => some (.dataReq s.sduLen)
  | .close => some .close

/-- CMD_ERR_REASON of a word that is no instruction (60_exceptions.md R150). -/
def rejectReason : Reject → Reason
  | .opcode => .opcode
  | .rsvBits => .rsvBits

/-- A word taken from the ready host port: its instruction is executed, or it is refused in the order of R72. -/
def takeWord (word : BitVec 32) (s : State) : StepResult :=
  match decodeCommand word with
  | .ok i => exec i s
  | .error e => .next (screenCommand (some (rejectReason e)) id s)

/-- The channel's answer to the engine's `RxAttempt`: a well-formed frame addressed to this station is executed as the
instruction its control field decodes to; any other answer is Retry or Malformed (42_reception_filter.md R111). -/
def takeAnswer (x : Option Bits) (s : State) : StepResult :=
  match receiveFrame s.stationAddr x with
  | .frame _ _ ctrl _ => exec (decodeControl ctrl) s
  | .malformed a t => onReceived (.malformed a t) s
  | .retry => onReceived .retry s

/-- The engine's turn. BUSY = 1: its next step, with the answer of its `RxAttempt` where it makes one. BUSY = 0: the
acceptance or refusal of the word waiting at the port; with no word waiting nothing happens (60_exceptions.md R146;
log 7). -/
def turn (s : State) : StepResult :=
  if s.busy then
    if rxDue s then takeAnswer (rxAttempt s).1 (rxAttempt s).2
    else
      match runningCommand s with
      | some i => exec i s
      | none => .fault .noEngineStep
  else
    match s.port with
    | [] => .next s
    | word :: words => takeWord word { s with port := words }

/-- One event of the environment. -/
def takeEvent (e : Event) (s : State) : StepResult :=
  match e with
  | .turn => turn s
  | .offer word => .next (hostOffer word s)
  | .sduWrite i v => .next (sduWrite i v s)
  | .read name => .next (hostRead name s)
  | .reset stationAddr windowSize => .next (applyReset stationAddr windowSize s)

/-- The engine is at a step that receives, or is put at CONN_IND's (log 16). -/
def receiving (s : State) : State :=
  if rxDue s then s else startCommand .connInd .wait s

/-- The host port is ready (log 16). -/
def portReady (s : State) : State := { s with busy := false, op := .idle, phase := .none }

end Sys2Proof.Machine
end

