-- ==== Sys2Proof/Machine/Step.lean ====
section
/-! DEFINITION. One step of the machine: the environment's next event, or the engine's turn when none is pending (log
5); and where a step fetches its next instruction (log 16). -/

namespace Sys2Proof.Machine

/-- One step (00_scope.md R12). -/
def step (s : State) : Host.Outcome State Fault Refusal :=
  match s.env with
  | [] => turn s
  | e :: es => takeEvent e { s with env := es }

/-- s with the instruction of this table word placed where the next step fetches it: a control field as a 32-bit frame
addressed to this station, the channel's next answer to an engine that is receiving; a command word at the head of the
ready host port; the engine's turn next. -/
def State.withFetchWord (s : State) (nbits w : Nat) : State :=
  if nbits ≤ 8 then
    let t := receiving s
    { t with env := .turn :: s.env, rx := some (buildFrame s.stationAddr (BitVec.ofNat 8 w) []) :: s.rx }
  else { portReady s with env := .turn :: s.env, port := BitVec.ofNat 32 w :: s.port }

end Sys2Proof.Machine
end

