-- ==== Sys2Proof/Laws/Bits.lean ====
section
/-! SUPPORT. Bit strings: the length, the value and the pieces of a fixed-width field, and the fields of a built
frame (00_scope.md R9, 30_encoding.md R56 to R66). -/

namespace Sys2Proof

@[simp] theorem length_bitsOf {n : Nat} (v : BitVec n) : (bitsOf v).length = n := by simp [bitsOf]

@[simp] theorem bitsOf_eq_nil {n : Nat} (v : BitVec n) : bitsOf v = [] ↔ n = 0 := by
  rw [← List.length_eq_zero_iff, length_bitsOf]

/-- Bit i of a field in transmission order is bit n-1-i of its value. -/
theorem bitsOf_getElem {n : Nat} (v : BitVec n) (i : Nat) (h : i < (bitsOf v).length) :
    (bitsOf v)[i] = v.getMsbD i := by simp [bitsOf]

@[simp] theorem length_bitRange (b : Bits) (i j : Nat) :
    (bitRange b i j).length = min (j + 1 - i) (b.length - i) := by simp [bitRange]

/-- A field of a byte read back is the byte. -/
theorem ofNat_uint_bitsOf8 (v : BitVec 8) : BitVec.ofNat 8 (uint (bitsOf v)) = v := by
  revert v; decide +kernel

/-- Eight bits make a byte whose bits, most significant first, they are. -/
theorem bitsOf_ofNat_uint8 (a b c d e f g h : Bool) :
    bitsOf (BitVec.ofNat 8 (uint [a, b, c, d, e, f, g, h])) = [a, b, c, d, e, f, g, h] := by
  revert a b c d e f g h; decide +kernel

theorem bitRange_append_right (x y : Bits) (i j : Nat) (h : x.length ≤ i) (hj : x.length ≤ j) :
    bitRange (x ++ y) i j = bitRange y (i - x.length) (j - x.length) := by
  unfold bitRange
  rw [List.drop_append, List.drop_eq_nil_of_le h, List.nil_append]
  congr 1; omega

theorem bitRange_append_left (x y : Bits) (i j : Nat) (h : j + 1 ≤ x.length) :
    bitRange (x ++ y) i j = bitRange x i j := by
  unfold bitRange
  by_cases hi : i ≤ x.length
  · rw [List.drop_append_of_le_length hi, List.take_append_of_le_length]
    simp only [List.length_drop]; omega
  · have : j + 1 - i = 0 := by omega
    simp [this]

theorem bitRange_all (x : Bits) (j : Nat) (h : x.length = j + 1) : bitRange x 0 j = x := by
  simp [bitRange, h.symm]

theorem bitAt_append_right (x y : Bits) (i : Nat) (h : x.length ≤ i) :
    bitAt (x ++ y) i = bitAt y (i - x.length) := by
  simp [bitAt, List.getElem?_append_right h]

theorem bitAt_append_left (x y : Bits) (i : Nat) (h : i < x.length) : bitAt (x ++ y) i = bitAt x i := by
  simp [bitAt, List.getElem?_append_left h]

/-- The first bit of a byte is its bit 7. -/
theorem bitAt_bitsOf8_0 (v : BitVec 8) : bitAt (bitsOf v) 0 = v.getLsbD 7 := by revert v; decide +kernel

/-- The second bit of a byte is its bit 6. -/
theorem bitAt_bitsOf8_1 (v : BitVec 8) : bitAt (bitsOf v) 1 = v.getLsbD 6 := by revert v; decide +kernel

namespace Machine

@[simp] theorem length_flag : flag.length = 8 := rfl

@[simp] theorem length_buildFrame (a c : BitVec 8) (info : Bits) :
    (buildFrame a c info).length = 32 + info.length := by
  simp [buildFrame]; omega

@[simp] theorem parseAddress_buildFrame (a c : BitVec 8) (info : Bits) :
    parseAddress (buildFrame a c info) = a := by
  have h : bitRange (buildFrame a c info) 8 15 = bitsOf a := by
    rw [buildFrame, List.append_assoc, List.append_assoc, List.append_assoc,
      bitRange_append_right _ _ _ _ (by simp) (by simp), bitRange_append_left _ _ _ _ (by simp)]
    exact bitRange_all _ _ (by simp)
  rw [parseAddress, h, ofNat_uint_bitsOf8]

@[simp] theorem ctrlOf_buildFrame (a c : BitVec 8) (info : Bits) : ctrlOf (buildFrame a c info) = c := by
  have h : bitRange (buildFrame a c info) 16 23 = bitsOf c := by
    rw [buildFrame, List.append_assoc, List.append_assoc, bitRange_append_right _ _ _ _ (by simp) (by simp),
      bitRange_append_left _ _ _ _ (by simp)]
    exact bitRange_all _ _ (by simp)
  rw [ctrlOf, h, ofNat_uint_bitsOf8]

@[simp] theorem parseFrameType_buildFrame (a c : BitVec 8) (info : Bits) :
    parseFrameType (buildFrame a c info) = ctrlType c := by
  have h0 : bitAt (buildFrame a c info) 16 = c.getLsbD 7 := by
    rw [buildFrame, List.append_assoc, List.append_assoc, bitAt_append_right _ _ _ (by simp),
      bitAt_append_left _ _ _ (by simp), ← bitAt_bitsOf8_0]; simp
  have h1 : bitAt (buildFrame a c info) 17 = c.getLsbD 6 := by
    rw [buildFrame, List.append_assoc, List.append_assoc, bitAt_append_right _ _ _ (by simp),
      bitAt_append_left _ _ _ (by simp), ← bitAt_bitsOf8_1]; simp
  rw [parseFrameType, ctrlType, h0, h1]

/-- The information field of a built frame is where R57 puts it. -/
theorem bitRange_info_buildFrame (a c : BitVec 8) (info : Bits) :
    bitRange (buildFrame a c info) 24 ((buildFrame a c info).length - 9) = info := by
  have h : buildFrame a c info = (flag ++ bitsOf a ++ bitsOf c) ++ (info ++ flag) := by
    simp [buildFrame]
  have hl : (flag ++ bitsOf a ++ bitsOf c).length = 24 := by simp
  rw [length_buildFrame, h, bitRange, List.drop_left' hl,
    show 32 + info.length - 9 + 1 - 24 = info.length by omega]
  simp

/-- A frame of 32 bits or more addressed to the station is a well-formed frame with its own type and control field
(R90). -/
theorem classify_long (a : BitVec 8) (b : Bits) (hn : 32 ≤ b.length) (ha : parseAddress b = a) :
    classify a b = .frame a (parseFrameType b) (ctrlOf b) (bitRange b 24 (b.length - 9)) := by
  have h1 : ¬ b.length < 16 := by omega
  have h2 : ¬ b.length < 17 := by omega
  have h3 : ¬ b.length < 18 := by omega
  have h4 : ¬ b.length < 32 := by omega
  simp [classify, ha, h1, h2, h3, h4]

/-- What a well-formed answer says of its bit string. -/
theorem classify_frame {a a' : BitVec 8} {b : Bits} {t : FrameType} {c : BitVec 8} {info : Bits}
    (h : classify a b = .frame a' t c info) :
    32 ≤ b.length ∧ a' = a ∧ parseAddress b = a ∧ t = parseFrameType b ∧ c = ctrlOf b := by
  unfold classify at h
  simp only [ne_eq] at h
  split at h; · cases h
  split at h; · cases h
  split at h; · cases h
  split at h; · cases h
  split at h; · cases h
  rename_i ha _ _ hn
  injection h with h1 h2 h3 h4
  exact ⟨by omega, by rw [← h1]; simpa using ha, by simpa using ha, h2.symm, h3.symm⟩

/-- A malformed answer is addressed to the station (R90). -/
theorem classify_malformed {a a' : BitVec 8} {b : Bits} {t : Option FrameType}
    (h : classify a b = .malformed a' t) : a' = a ∧ b.length < 32 := by
  unfold classify at h
  simp only [ne_eq] at h
  split at h; · cases h
  split at h; · cases h
  rename_i ha
  have ha' : parseAddress b = a := by simpa using ha
  split at h
  · injection h with h1; exact ⟨by rw [← h1, ha'], by omega⟩
  split at h
  · injection h with h1; exact ⟨by rw [← h1, ha'], by omega⟩
  split at h
  · injection h with h1; exact ⟨by rw [← h1, ha'], by omega⟩
  · cases h

end Machine

end Sys2Proof
end

