-- ==== Sys2Proof/Laws/Control.lean ====
section
/-! SUPPORT. Control fields (30_encoding.md R59 to R66): the fields of each format, a field of each format rebuilt from
its parts, and the link from a decoded frame kind to its control field. -/

namespace Sys2Proof

@[simp] theorem ctrlNS_iControl (ns : SeqNum) (pf : Bool) (nr : SeqNum) : ctrlNS (iControl ns pf nr) = ns := by
  revert ns pf nr; decide +kernel
@[simp] theorem ctrlPF_iControl (ns : SeqNum) (pf : Bool) (nr : SeqNum) : ctrlPF (iControl ns pf nr) = pf := by
  revert ns pf nr; decide +kernel
@[simp] theorem ctrlNR_iControl (ns : SeqNum) (pf : Bool) (nr : SeqNum) : ctrlNR (iControl ns pf nr) = nr := by
  revert ns pf nr; decide +kernel
@[simp] theorem ctrlS_sControl (k : BitVec 2) (pf : Bool) (nr : SeqNum) : ctrlS (sControl k pf nr) = k := by
  revert k pf nr; decide +kernel
@[simp] theorem ctrlPF_sControl (k : BitVec 2) (pf : Bool) (nr : SeqNum) : ctrlPF (sControl k pf nr) = pf := by
  revert k pf nr; decide +kernel
@[simp] theorem ctrlNR_sControl (k : BitVec 2) (pf : Bool) (nr : SeqNum) : ctrlNR (sControl k pf nr) = nr := by
  revert k pf nr; decide +kernel
@[simp] theorem ctrlMod_uControl (m : BitVec 5) (pf : Bool) : ctrlMod (uControl m pf) = m := by
  revert m pf; decide +kernel
@[simp] theorem ctrlPF_uControl (m : BitVec 5) (pf : Bool) : ctrlPF (uControl m pf) = pf := by
  revert m pf; decide +kernel

namespace Machine

@[simp] theorem ctrlType_iControl (ns : SeqNum) (pf : Bool) (nr : SeqNum) : ctrlType (iControl ns pf nr) = .i := by
  revert ns pf nr; decide +kernel
@[simp] theorem ctrlType_sControl (k : BitVec 2) (pf : Bool) (nr : SeqNum) : ctrlType (sControl k pf nr) = .s := by
  revert k pf nr; decide +kernel
@[simp] theorem ctrlType_uControl (m : BitVec 5) (pf : Bool) : ctrlType (uControl m pf) = .u := by
  revert m pf; decide +kernel

end Machine

/-- An I control field is the I format of its parts. -/
theorem iControl_of_bits (c : BitVec 8) (h : c.getLsbD 7 = false) :
    iControl (ctrlNS c) (ctrlPF c) (ctrlNR c) = c := by revert c; decide +kernel

/-- An S control field is the S format of its parts. -/
theorem sControl_of_bits (c : BitVec 8) (h7 : c.getLsbD 7 = true) (h6 : c.getLsbD 6 = false) :
    sControl (ctrlS c) (ctrlPF c) (ctrlNR c) = c := by revert c; decide +kernel

/-- A U control field is the U format of its parts. -/
theorem uControl_of_bits (c : BitVec 8) (h7 : c.getLsbD 7 = true) (h6 : c.getLsbD 6 = true) :
    uControl (ctrlMod c) (ctrlPF c) = c := by revert c; decide +kernel

/-- A supervisory code that is none of RR, REJ, RNR is SREJ (R63). -/
theorem code_srej {k : BitVec 2} (h0 : k ≠ codeRR) (h1 : k ≠ codeREJ) (h2 : k ≠ codeRNR) : k = codeSREJ := by
  revert k; decide +kernel

/-! ### Command words (R70) -/

theorem toNat_commandWord (opc : BitVec 3) (len : BitVec 16) :
    (commandWord opc len).toNat = len.toNat * 65536 + opc.toNat := by
  have h : (commandWord opc len).toNat = (len ++ 0#13 ++ opc).toNat := rfl
  rw [h]; simp only [BitVec.toNat_append]
  rw [← Nat.shiftLeft_add_eq_or_of_lt opc.isLt]; simp [Nat.shiftLeft_eq]; omega

@[simp] theorem cmdOpc_commandWord (opc : BitVec 3) (len : BitVec 16) : cmdOpc (commandWord opc len) = opc :=
  BitVec.extractLsb'_append_eq_right

@[simp] theorem cmdLen_commandWord (opc : BitVec 3) (len : BitVec 16) : cmdLen (commandWord opc len) = len := by
  apply BitVec.eq_of_toNat_eq
  have := opc.isLt
  have := len.isLt
  simp only [cmdLen, BitVec.extractLsb'_toNat, toNat_commandWord, Nat.shiftRight_eq_div_pow]
  omega

@[simp] theorem cmdRsv_commandWord (opc : BitVec 3) (len : BitVec 16) : cmdRsv (commandWord opc len) = 0 := by
  apply BitVec.eq_of_toNat_eq
  have := opc.isLt
  have := len.isLt
  simp only [cmdRsv, BitVec.extractLsb'_toNat, toNat_commandWord, Nat.shiftRight_eq_div_pow]
  simp; omega

namespace Machine

/-- The execution of the frame kind a control field decodes to is that control field's arrival, for each of the 256
values (30_encoding.md R69). -/
theorem exec_decodeControl (c : BitVec 8) (s : State) : exec (decodeControl c) s = frameArrives c s := by
  unfold decodeControl
  split
  · rename_i h7
    simp only [exec, execIFrame, iControl_of_bits c h7]
  rename_i h7
  have h7 : c.getLsbD 7 = true := by simpa using h7
  split
  · rename_i h6
    have hs := sControl_of_bits c h7 h6
    split
    · rename_i h; rw [h] at hs; simp only [exec, execRR, hs]
    rename_i h0
    split
    · rename_i h; rw [h] at hs; simp only [exec, execREJ, hs]
    rename_i h1
    split
    · rename_i h; rw [h] at hs; simp only [exec, execRNR, hs]
    rename_i h2
    rw [code_srej h0 h1 h2] at hs; simp only [exec, execSREJ, hs]
  rename_i h6
  have h6 : c.getLsbD 6 = true := by simpa using h6
  have hu := uControl_of_bits c h7 h6
  split
  · rename_i h; rw [h] at hu; simp only [exec, execSNRM, hu]
  split
  · rename_i h; rw [h] at hu; simp only [exec, execDISC, hu]
  split
  · rename_i h; rw [h] at hu; simp only [exec, execUA, hu]
  simp only [exec, execUOther]
  rw [show ctrlM1 c ++ ctrlM2 c = ctrlMod c from rfl, hu]

end Machine

end Sys2Proof
end

