-- ==== Sys2Proof/Laws/PerInstr.lean ====
section
/-! SUPPORT. The family of statements about every instruction as syntax: decoding its encoding gives it back, with
every operand (30_encoding.md R65, R70, R71). -/

namespace Sys2Proof.Laws.RoundTrip

/-- A well-formed instruction is what its code decodes to. -/
def Statement (i : Instr) : Prop := i.wellFormed = true → decode (encode i) = .ok i

theorem connInd : Statement .connInd := fun _ => rfl
theorem connResp : Statement .connResp := fun _ => rfl
theorem discInd : Statement .discInd := fun _ => rfl
theorem close : Statement .close := fun _ => rfl

theorem dataReq (len : BitVec 16) : Statement (.dataReq len) := by
  intro _
  have h1 := cmdOpc_commandWord 4 len
  have h2 := cmdRsv_commandWord 4 len
  have h3 := cmdLen_commandWord 4 len
  show decodeCommand (commandWord 4 len) = _
  unfold decodeCommand
  rw [h1, h2, h3]; rfl

theorem iFrame (ns : SeqNum) (pf : Bool) (nr : SeqNum) : Statement (.iFrame ns pf nr) := by
  revert ns pf nr; unfold Statement; decide +kernel
theorem rr (pf : Bool) (nr : SeqNum) : Statement (.rr pf nr) := by revert pf nr; unfold Statement; decide +kernel
theorem rnr (pf : Bool) (nr : SeqNum) : Statement (.rnr pf nr) := by revert pf nr; unfold Statement; decide +kernel
theorem rej (pf : Bool) (nr : SeqNum) : Statement (.rej pf nr) := by revert pf nr; unfold Statement; decide +kernel
theorem srej (pf : Bool) (nr : SeqNum) : Statement (.srej pf nr) := by revert pf nr; unfold Statement; decide +kernel
theorem snrm (pf : Bool) : Statement (.snrm pf) := by revert pf; unfold Statement; decide +kernel
theorem disc (pf : Bool) : Statement (.disc pf) := by revert pf; unfold Statement; decide +kernel
theorem ua (pf : Bool) : Statement (.ua pf) := by revert pf; unfold Statement; decide +kernel
theorem uOther (m1 : BitVec 2) (pf : Bool) (m2 : BitVec 3) : Statement (.uOther m1 pf m2) := by
  revert m1 pf m2; unfold Statement; decide +kernel

end Sys2Proof.Laws.RoundTrip
end

