-- ==== Sys2Proof/Safety.lean ====
section
/-! DEFINITION. What statements about whole runs speak of: the states reset leaves, reachability under every host and
channel, and the invariant of the engine's registers (10_state.md R22 to R33, 43_transfer_engine.md R119 to R139). -/

namespace Sys2Proof.Machine

/-- The engine's turn is the next step (a `turn` event, or no event pending), and this is the state it takes it in. -/
def atTurn (s : State) : Option State :=
  match s.env with
  | [] => some s
  | .turn :: es => some { s with env := es }
  | _ => none

/-- The next step is a reset. -/
def resetNext (s : State) : Bool :=
  match s.env with
  | .reset _ _ :: _ => true
  | _ => false

/-- MAX_SDU_BYTES lies in its range, 200..65535 (00_scope.md R7). -/
def paramsOk (p : Config.Params) : Prop := 200 ≤ p.maxSduBytes ∧ p.maxSduBytes ≤ 65535

/-- A state a reset leaves, with any sampled inputs, any parameters in range, and any host and channel to come (their
events and answers are in the fields `env`, `port` and `rx`, which reset does not touch). -/
def Booted (s : State) : Prop :=
  ∃ (addr : BitVec 8) (size : BitVec 4) (t : State), paramsOk t.params ∧ s = applyReset addr size t

/-- Reachable from some reset, by any number of steps under any host and channel. -/
inductive Reachable : State → Prop where
  | booted {s : State} : Booted s → Reachable s
  | step {s t : State} : Reachable s → step s = .next t → Reachable t

/-- The window invariant (10_state.md R24): (a) FB.len ≤ W, (b) off ≤ FB.len, (c) VS ≠ RHS exactly when off < W. (c)
is said for a legal W only: at W = 8 reset leaves VS = RHS and off = 0 (log 15). -/
structure WindowInv (s : State) : Prop where
  occupancy : s.fb.length ≤ s.w.toNat
  offset : windowOffset s ≤ s.fb.length
  openTest : s.cfgErr = false → (s.vs ≠ s.rhs ↔ windowOffset s < s.w.toNat)

/-- The PHASE values a command takes (10_state.md R27). -/
def phaseFits : Op → Phase → Bool
  | .idle, .none => true
  | .connInd, .wait => true
  | .connResp, .none => true
  | .discInd, .wait => true
  | .dataReq, .pollSync => true
  | .dataReq, .loop => true
  | .close, .none => true
  | _, _ => false

/-- The sequencer's registers agree (10_state.md R26, R27, R30, R31, R32, 60_exceptions.md R149, R150). -/
structure SequencerInv (s : State) : Prop where
  busy_iff : s.busy = decide (s.op ≠ .idle)
  phase_fits : phaseFits s.op s.phase = true
  no_result_while_busy : s.busy = true → s.resultValid = false
  idle_of_cfgErr : s.cfgErr = true → s.op = .idle
  idle_of_closed : s.closed = true → s.op = .idle ∧ s.connState = .disconnected

/-- FB holds the last FB.len fragments sent, in order, as the frames built for them: entry k has N(S) = LE +8 k
(10_state.md R23), the bytes of its fragment (43_transfer_engine.md R119), the final bit exactly on the last fragment
(R126) and N(R) = VR (R127). -/
def bufferHolds (s : State) : Prop :=
  s.fb.length ≤ s.fragNext.toNat ∧
    ∀ k, k < s.fb.length →
      ∃ bytes, fragmentBytes s (s.fragNext.toNat - s.fb.length + k) = some bytes ∧
        s.fb[k]? = some (buildI s.stationAddr (infoBits bytes) (leftEdge s + BitVec.ofNat 3 k)
          (decide (s.fragNext.toNat - s.fb.length + k + 1 = s.fragTotal.toNat)) s.vr)

/-- The transfer registers (10_state.md R22, R28, 43_transfer_engine.md R120, R135, 70_reset_and_hazards.md R174). -/
structure TransferInv (s : State) : Prop where
  vr_zero : s.vr = 0
  len_le : s.sduLen.toNat ≤ s.params.maxSduBytes
  total : s.fragTotal = fragmentCount s.sduLen
  next_le : s.fragNext.toNat ≤ s.fragTotal.toNat
  buffer : bufferHolds s
  done_outside : s.op ≠ .dataReq → s.fb = [] ∧ s.fragNext = s.fragTotal
  fresh_before_loop : s.phase = .pollSync → s.fb = [] ∧ s.fragNext = 0

/-- The result registers hold a combination 60_exceptions.md R145 allows; a failure names this station (41_connection.md
R105). -/
def resultOk (s : State) : Prop :=
  match s.resCode with
  | .srvSuccessful => s.resDiagKind = .none ∧ s.resDiag = 0
  | .unexpectedFrameReceived => s.resDiagKind = .type ∧ s.resDiag.toNat ≤ 1 ∧ s.resValue = s.stationAddr
  | .unexpectedUFrameReceived => s.resDiagKind = .mod ∧ s.resValue = s.stationAddr
  | .decodeFailure => s.resDiagKind = .type ∧ s.resDiag.toNat ≤ 3 ∧ s.resValue = s.stationAddr

/-- The SDU buffer is in canonical form and inside MAX_SDU_BYTES (20_memory.md R44). -/
structure StorageInv (s : State) : Prop where
  canonical : memoryWf s.sdu
  in_range : ∀ x ∈ s.sdu, x.1 < s.params.maxSduBytes

/-- The invariant of the engine's state. -/
structure EngineInv (s : State) : Prop where
  params : paramsOk s.params
  window : WindowInv s
  sequencer : SequencerInv s
  transfer : TransferInv s
  result : resultOk s
  storage : StorageInv s
  cfg : s.cfgErr = windowSizeIllegal s.w
  reason : s.cmdErr = decide (s.cmdErrReason ≠ .none)

end Sys2Proof.Machine
end

