-- ==== Sys2Proof/Certificates/Slice0/Obligations.lean ====
section
/-! DEFINITION. The statements for the provers. A record update `{ s with … }` in a conclusion states the frame as well:
every register, flag, byte and port it does not name keeps its value. -/

open Sys2Proof Sys2Proof.Machine

/-! ### Encoding and the frame model (30_encoding.md, 40_frame_model.md) -/

/-- Decoding the code of a well-formed instruction gives it back, with every operand (R65, R70, R71). -/
def Obligations.DecodeEncodeRoundTrip : Prop :=
  ∀ i : Instr, i.wellFormed = true → decode (encode i) = .ok i

/-- Every one of the 256 control fields decodes to one well-formed frame kind, whose encoding it is (R62, R69); and
each kind's control field is the one of its format, S code or modifier (R59, R60, R61, R63, R64). -/
def Obligations.ControlFieldsAllDecode : Prop :=
  (∀ c : BitVec 8, (decodeControl c).wellFormed = true ∧ encode (decodeControl c) = .control c) ∧
  (∀ ns pf nr, encode (.iFrame ns pf nr) = .control (iControl ns pf nr)) ∧
  (∀ pf nr, encode (.rr pf nr) = .control (sControl 0 pf nr) ∧ encode (.rej pf nr) = .control (sControl 1 pf nr) ∧
    encode (.rnr pf nr) = .control (sControl 2 pf nr) ∧ encode (.srej pf nr) = .control (sControl 3 pf nr)) ∧
  (∀ pf, encode (.snrm pf) = .control (uControl 1 pf) ∧ encode (.disc pf) = .control (uControl 2 pf) ∧
    encode (.ua pf) = .control (uControl 6 pf)) ∧
  (∀ m1 pf m2, encode (.uOther m1 pf m2) = .control (uControl (m1 ++ m2) pf))

/-- The command decoder rejects exactly the reserved opcodes and bits, and an accepted word is its command's encoding,
written out for each command (R70, R71, R72). -/
def Obligations.CommandDecodeRejectsReserved : Prop :=
  ∀ w : BitVec 32,
    (decodeCommand w = .error .opcode ↔ cmdOpc w = 0 ∨ cmdOpc w = 6 ∨ cmdOpc w = 7) ∧
    (decodeCommand w = .error .rsvBits ↔
      ¬ (cmdOpc w = 0 ∨ cmdOpc w = 6 ∨ cmdOpc w = 7) ∧ (cmdRsv w ≠ 0 ∨ (cmdOpc w ≠ 4 ∧ cmdLen w ≠ 0))) ∧
    (∀ i, decodeCommand w = .ok i → encode i = .command w) ∧
    encode .connInd = .command 1 ∧ encode .connResp = .command 2 ∧ encode .discInd = .command 3 ∧
    (∀ len : BitVec 16, encode (.dataReq len) = .command (len ++ 4#16)) ∧ encode .close = .command 5

/-- Words written out from the spec's encodings (R59 to R65, R70, R71) decode to the instructions they stand for. -/
def Obligations.SpecWordsDecode : Prop :=
  decode (.command 0x00000001#32) = .ok .connInd ∧
  decode (.command 0x00000002#32) = .ok .connResp ∧
  decode (.command 0x00000003#32) = .ok .discInd ∧
  decode (.command 0x00C80004#32) = .ok (.dataReq 200) ∧
  decode (.command 0x00000005#32) = .ok .close ∧
  decode (.control 0b00101000#8) = .ok (.iFrame 2 true 0) ∧
  decode (.control 0b10000100#8) = .ok (.rr false 4) ∧
  decode (.control 0b10101000#8) = .ok (.rnr true 0) ∧
  decode (.control 0b10011111#8) = .ok (.rej true 7) ∧
  decode (.control 0b10110101#8) = .ok (.srej false 5) ∧
  decode (.control 0b11001001#8) = .ok (.snrm true) ∧
  decode (.control 0b11000010#8) = .ok (.disc false) ∧
  decode (.control 0b11001110#8) = .ok (.ua true) ∧
  decode (.control 0b11110100#8) = .ok (.uOther 3 false 4)

/-- The frames built, bit for bit (R82, R83), and the round-trip law of the frame model (R92): a built frame
classifies back, and its operands are read back. -/
def Obligations.BuiltFramesClassifyBack : Prop :=
  (∀ (a : BitVec 8) (mod : BitVec 5) (pf : Bool),
    buildU a mod pf =
      [false, true, true, true, true, true, true, false] ++
      [a.getLsbD 7, a.getLsbD 6, a.getLsbD 5, a.getLsbD 4, a.getLsbD 3, a.getLsbD 2, a.getLsbD 1, a.getLsbD 0] ++
      [true, true, mod.getLsbD 4, mod.getLsbD 3, pf, mod.getLsbD 2, mod.getLsbD 1, mod.getLsbD 0] ++
      [false, true, true, true, true, true, true, false]) ∧
  (∀ (a : BitVec 8) (info : Bits) (ns : SeqNum) (pf : Bool) (nr : SeqNum),
    buildI a info ns pf nr =
      [false, true, true, true, true, true, true, false] ++
      [a.getLsbD 7, a.getLsbD 6, a.getLsbD 5, a.getLsbD 4, a.getLsbD 3, a.getLsbD 2, a.getLsbD 1, a.getLsbD 0] ++
      [false, ns.getLsbD 2, ns.getLsbD 1, ns.getLsbD 0, pf, nr.getLsbD 2, nr.getLsbD 1, nr.getLsbD 0] ++
      info ++ [false, true, true, true, true, true, true, false]) ∧
  (∀ (a : BitVec 8) (mod : BitVec 5) (pf : Bool),
    classify a (buildU a mod pf) = .frame a .u (uControl mod pf) [] ∧
    bitsOf (uControl mod pf) = [true, true] ++ bitsOf (mod.extractLsb' 3 2) ++ [pf] ++ bitsOf (mod.extractLsb' 0 3) ∧
    parseModifier (buildU a mod pf) = mod) ∧
  (∀ (a : BitVec 8) (info : Bits) (ns : SeqNum) (pf : Bool) (nr : SeqNum),
    classify a (buildI a info ns pf nr) = .frame a .i (iControl ns pf nr) info ∧
    bitsOf (iControl ns pf nr) = [false] ++ bitsOf ns ++ [pf] ++ bitsOf nr ∧
    parseAckNumber (buildI a info ns pf nr) = nr)

/-- The field parsers read the bits R84 to R89 name, as unsigned values most significant bit first. -/
def Obligations.FieldParsersReadTheirBits : Prop :=
  (∀ b : Bits, 16 ≤ b.length → (parseAddress b).toNat = uint (bitRange b 8 15)) ∧
  (∀ b : Bits, 17 ≤ b.length →
    (bitAt b 16 = false → parseFrameType b = .i) ∧
    (bitAt b 16 = true → 18 ≤ b.length → bitAt b 17 = false → parseFrameType b = .s) ∧
    (bitAt b 16 = true → 18 ≤ b.length → bitAt b 17 = true → parseFrameType b = .u)) ∧
  (∀ b : Bits, 24 ≤ b.length →
    (parseModifier b).toNat = 8 * uint (bitRange b 18 19) + uint (bitRange b 21 23) ∧
    (parseAckNumber b).toNat = uint (bitRange b 21 23) ∧
    parsePF b = bitAt b 20 ∧
    (parseSCode b).toNat = uint (bitRange b 18 19))

/-- Classify's outcome on every bit string, in the order of R90. -/
def Obligations.ClassifyOutcomes : Prop :=
  ∀ (a : BitVec 8) (b : Bits),
    (b.length < 16 → classify a b = .notMine) ∧
    (16 ≤ b.length → parseAddress b ≠ a → classify a b = .notMine) ∧
    (16 ≤ b.length → parseAddress b = a →
      (b.length < 17 → classify a b = .malformed a none) ∧
      (17 ≤ b.length → bitAt b 16 = false → b.length < 32 → classify a b = .malformed a (some .i)) ∧
      (17 ≤ b.length → bitAt b 16 = true → b.length < 18 → classify a b = .malformed a none) ∧
      (18 ≤ b.length → bitAt b 16 = true → b.length < 32 →
        classify a b = .malformed a (some (if bitAt b 17 then .u else .s))) ∧
      (32 ≤ b.length → classify a b =
        .frame a (if bitAt b 16 then (if bitAt b 17 then .u else .s) else .i) (ctrlOf b)
          (bitRange b 24 (b.length - 9))))

/-- Delimiters, extra bits and the information field of a received frame have no effect (R91): two answers of 32 bits
or more that agree on the address and control field make the same step. Answers as in log 4. -/
def Obligations.DelimitersAndExtraBitsUnread : Prop :=
  ∀ (s u : State) (b b' : Bits) (rest : List (Option Bits)),
    atTurn s = some u → rxDue u = true → 32 ≤ b.length → 32 ≤ b'.length →
    bitRange b 8 23 = bitRange b' 8 23 →
    step { s with rx := some b :: rest } = step { s with rx := some b' :: rest }

/-! ### Reset and the host port (70_reset_and_hazards.md, 20_memory.md, 10_state.md) -/

/-- A reset event in any state, a command in progress or not, leaves exactly the values R163 gives, in one step: the
event is consumed. Events as a list are the model's choice (log 5). -/
def Obligations.ResetWritesEveryRegister : Prop :=
  ∀ (s : State) (addr : BitVec 8) (size : BitVec 4) (es : List Event),
    s.env = .reset addr size :: es →
    ∃ t, step s = .next t ∧
      t.stationAddr = addr ∧ t.w = size ∧ t.cfgErr = decide (size.toNat < 1 ∨ size.toNat > 7) ∧
      t.vs = 0 ∧ t.vr = 0 ∧ t.rhs = BitVec.ofNat 3 (size.toNat % 8) ∧ t.fb = [] ∧
      t.connState = .disconnected ∧ t.op = .idle ∧ t.phase = .none ∧ t.busy = false ∧
      t.sduLen = 0 ∧ t.fragTotal = 0 ∧ t.fragNext = 0 ∧
      t.resCode = .srvSuccessful ∧ t.resValue = 0 ∧ t.resDiagKind = .none ∧ t.resDiag = 0 ∧ t.resultValid = false ∧
      t.closed = false ∧ t.cmdErr = false ∧ t.cmdErrReason = .none ∧
      (∀ i, sduRead t i = none) ∧ t.tx = s.tx ++ [.reset] ∧ t.params = s.params ∧ t.env = es

/-- With BUSY = 0 and no word at the port, a turn changes nothing: no engine step runs (R146; log 7). -/
def Obligations.IdleEngineWaits : Prop :=
  ∀ s u : State, atTurn s = some u → u.busy = false → u.port = [] → step s = .next u

/-- The checks of command acceptance and their order (R72, R153), on any 32-bit word offered to the ready port. -/
def Obligations.AcceptanceChecksInOrder : Prop :=
  ∀ (s u : State) (w : BitVec 32) (ws : List (BitVec 32)),
    atTurn s = some u → u.busy = false → u.port = w :: ws →
    step s = .next (
      let v := { u with port := ws }
      if u.cfgErr = true then { v with cmdErr := true, cmdErrReason := .cfg }
      else if u.closed = true then { v with cmdErr := true, cmdErrReason := .closed }
      else if cmdOpc w = 0 ∨ cmdOpc w = 6 ∨ cmdOpc w = 7 then { v with cmdErr := true, cmdErrReason := .opcode }
      else if cmdRsv w ≠ 0 ∨ (cmdOpc w ≠ 4 ∧ cmdLen w ≠ 0) then { v with cmdErr := true, cmdErrReason := .rsvBits }
      else if cmdOpc w = 4 ∧ u.params.maxSduBytes < (cmdLen w).toNat then
        { v with cmdErr := true, cmdErrReason := .len }
      else if cmdOpc w = 1 then { v with op := .connInd, busy := true, resultValid := false, phase := .wait }
      else if cmdOpc w = 2 then { v with op := .connResp, busy := true, resultValid := false, phase := .none }
      else if cmdOpc w = 3 then { v with op := .discInd, busy := true, resultValid := false, phase := .wait }
      else if cmdOpc w = 4 then
        { v with
          op := .dataReq, busy := true, resultValid := false, phase := .pollSync
          sduLen := cmdLen w, fragTotal := BitVec.ofNat 16 (((cmdLen w).toNat + 63) / 64), fragNext := 0 }
      else { v with op := .close, busy := true, resultValid := false, phase := .none })

/-- While BUSY = 1 the engine's turn takes no word from the port and refuses none (R43, R169). A word offered, busy or
not, joins the waiting words and changes nothing else. The port as a list is the model's choice (log 6). -/
def Obligations.BusyEngineHoldsCommands : Prop :=
  (∀ s u t : State, atTurn s = some u → u.busy = true → step s = .next t →
    t.port = u.port ∧ t.cmdErr = u.cmdErr ∧ t.cmdErrReason = u.cmdErrReason) ∧
  (∀ (s : State) (w : BitVec 32) (es : List Event), s.env = .offer w :: es →
    step s = .next { s with env := es, port := s.port ++ [w] })

/-- SduWrite (R44, R150, R153): refused while busy, then out of range, with no byte changed; else the byte is the one
read back and every other byte is unchanged. Refusal and range checks also hold while CLOSED or CFG_ERR (log 23). -/
def Obligations.SduWriteEffects : Prop :=
  ∀ (s : State) (i : Nat) (v : Byte) (es : List Event), s.env = .sduWrite i v :: es →
    (s.busy = true → step s = .next { s with env := es, cmdErr := true, cmdErrReason := .sduBusy }) ∧
    (s.busy = false → s.params.maxSduBytes ≤ i →
      step s = .next { s with env := es, cmdErr := true, cmdErrReason := .sduRange }) ∧
    (s.busy = false → i < s.params.maxSduBytes →
      ∃ m, step s = .next { s with env := es, sdu := m } ∧ (memoryWf s.sdu → memoryWf m) ∧
        memoryRead m i = some v ∧ ∀ j, j ≠ i → memoryRead m j = memoryRead s.sdu j)

/-- The codes of the register fields (R25, R26, R27, R144, R145, R150), the layouts of STATUS, RESULT and CONFIG,
field by field, the outputs done and err (R152), and reading them changes nothing else (R34; that the words returned
are kept in `reads` is the model's, log 8). -/
def Obligations.StatusResultConfigLayout : Prop :=
  (connCode .disconnected = 0 ∧ connCode .awaitingResponse = 1 ∧ connCode .connected = 2) ∧
  (opCode .idle = 0 ∧ opCode .connInd = 1 ∧ opCode .connResp = 2 ∧ opCode .discInd = 3 ∧ opCode .dataReq = 4 ∧
    opCode .close = 5) ∧
  (phaseCode .none = 0 ∧ phaseCode .wait = 1 ∧ phaseCode .pollSync = 2 ∧ phaseCode .loop = 3) ∧
  (resCodeCode .srvSuccessful = 0 ∧ resCodeCode .unexpectedFrameReceived = 1 ∧
    resCodeCode .unexpectedUFrameReceived = 2 ∧ resCodeCode .decodeFailure = 3) ∧
  (diagKindCode .none = 0 ∧ diagKindCode .type = 1 ∧ diagKindCode .mod = 2) ∧
  (typeCode (some .i) = 0 ∧ typeCode (some .s) = 1 ∧ typeCode (some .u) = 2 ∧ typeCode none = 3) ∧
  (reasonCode .none = 0 ∧ reasonCode .cfg = 1 ∧ reasonCode .closed = 2 ∧ reasonCode .opcode = 3 ∧
    reasonCode .rsvBits = 4 ∧ reasonCode .len = 5 ∧ reasonCode .sduBusy = 6 ∧ reasonCode .sduRange = 7) ∧
  ∀ s : State,
    ((statusWord s).getLsbD 0 = s.busy ∧ (statusWord s).getLsbD 1 = s.resultValid ∧
      (statusWord s).getLsbD 2 = s.closed ∧ (statusWord s).getLsbD 3 = s.cmdErr ∧
      (statusWord s).getLsbD 4 = s.cfgErr ∧ (statusWord s).extractLsb' 5 2 = connCode s.connState ∧
      (statusWord s).extractLsb' 7 3 = opCode s.op ∧ (statusWord s).extractLsb' 10 2 = phaseCode s.phase ∧
      (statusWord s).extractLsb' 12 3 = reasonCode s.cmdErrReason ∧ (statusWord s).getLsbD 15 = false) ∧
    ((resultWord s).extractLsb' 0 2 = resCodeCode s.resCode ∧
      (resultWord s).extractLsb' 2 2 = diagKindCode s.resDiagKind ∧ (resultWord s).extractLsb' 4 5 = s.resDiag ∧
      (resultWord s).extractLsb' 9 7 = 0 ∧ (resultWord s).extractLsb' 16 8 = s.resValue ∧
      (resultWord s).extractLsb' 24 8 = 0) ∧
    ((configWord s).extractLsb' 0 8 = s.stationAddr ∧ (configWord s).extractLsb' 8 4 = s.w ∧
      (configWord s).extractLsb' 12 4 = 0) ∧
    (outputDone s = s.resultValid ∧ outputErr s = (s.cmdErr || s.cfgErr)) ∧
    ∀ es, (s.env = .read .status :: es →
        step s = .next { s with env := es, reads := s.reads ++ [.status (statusWord s)] }) ∧
      (s.env = .read .result :: es →
        step s = .next { s with env := es, reads := s.reads ++ [.result (resultWord s)] }) ∧
      (s.env = .read .config :: es →
        step s = .next { s with env := es, reads := s.reads ++ [.config (configWord s)] })

/-- The layouts of WINDOW and XFER, and reading them changes nothing else (R35; log 8). LE is computed as in R21. -/
def Obligations.WindowXferLayout : Prop :=
  ∀ s : State,
    ((windowWord s).extractLsb' 0 3 = s.vs ∧ (windowWord s).extractLsb' 3 3 = s.rhs ∧
      (windowWord s).extractLsb' 6 3 = s.rhs - BitVec.ofNat 3 (s.w.toNat % 8) ∧
      (windowWord s).extractLsb' 9 3 = s.vr ∧
      ((windowWord s).extractLsb' 12 3).toNat = s.fb.length % 8 ∧ (windowWord s).getLsbD 15 = false) ∧
    ((xferWord s).extractLsb' 0 16 = s.sduLen ∧ (xferWord s).extractLsb' 16 16 = s.fragTotal ∧
      (xferWord s).extractLsb' 32 16 = s.fragNext) ∧
    ∀ es, (s.env = .read .window :: es →
        step s = .next { s with env := es, reads := s.reads ++ [.window (windowWord s)] }) ∧
      (s.env = .read .xfer :: es →
        step s = .next { s with env := es, reads := s.reads ++ [.xfer (xferWord s)] })

/-! ### Commands (41_connection.md, 43_transfer_engine.md) -/

/-- The acceptance of CONN_IND and DISC_IND (R99). That exec of a command is its acceptance while BUSY = 0 is the
model's choice (log 9). -/
def Obligations.IndicationsAccepted : Prop :=
  ∀ s : State, s.busy = false → s.cfgErr = false → s.closed = false →
    exec .connInd s = .next { s with op := .connInd, busy := true, resultValid := false, phase := .wait } ∧
    exec .discInd s = .next { s with op := .discInd, busy := true, resultValid := false, phase := .wait }

/-- The acceptance of the one-step commands CONN_RESP and CLOSE (R72, R27). Acceptance as one execution is the model's
choice (log 9). -/
def Obligations.OneStepCommandsAccepted : Prop :=
  ∀ s : State, s.busy = false → s.cfgErr = false → s.closed = false →
    exec .connResp s = .next { s with op := .connResp, busy := true, resultValid := false, phase := .none } ∧
    exec .close s = .next { s with op := .close, busy := true, resultValid := false, phase := .none }

/-- DATA_REQ's acceptance (R118, R120): SDU_LEN, F = (L + 63) div 64, FRAG_NEXT = 0; the window keeps its values.
Acceptance as one execution is the model's choice (log 9). -/
def Obligations.DataReqAccepted : Prop :=
  ∀ (s : State) (len : BitVec 16), s.busy = false → s.cfgErr = false → s.closed = false →
    len.toNat ≤ s.params.maxSduBytes →
    exec (.dataReq len) s = .next { s with
      op := .dataReq, busy := true, resultValid := false, phase := .pollSync
      sduLen := len, fragTotal := BitVec.ofNat 16 ((len.toNat + 63) / 64), fragNext := 0 }

/-- A command offered to an idle engine in a state that may not run it is refused and changes CMD_ERR and
CMD_ERR_REASON only (R149, R150, R153). Acceptance as one execution is the model's choice (log 9). -/
def Obligations.CommandsRefused : Prop :=
  ∀ (s : State) (i : Instr),
    (i = .connInd ∨ i = .connResp ∨ i = .discInd ∨ i = .close ∨ ∃ len, i = .dataReq len) → s.busy = false →
    (s.cfgErr = true → exec i s = .next { s with cmdErr := true, cmdErrReason := .cfg }) ∧
    (s.cfgErr = false → s.closed = true → exec i s = .next { s with cmdErr := true, cmdErrReason := .closed }) ∧
    (∀ len, i = .dataReq len → s.cfgErr = false → s.closed = false → s.params.maxSduBytes < len.toNat →
      exec i s = .next { s with cmdErr := true, cmdErrReason := .len })

/-- While another command runs a command is held and changes nothing (R43, log 9); a command whose OP and PHASE no rule
gives a step for stops by name (log 12; no reachable state is one). -/
def Obligations.CommandsHeldOrUnruled : Prop :=
  ∀ (s : State) (len : BitVec 16), s.busy = true →
    (s.op ≠ .connInd → exec .connInd s = .next s) ∧ (s.op ≠ .connResp → exec .connResp s = .next s) ∧
    (s.op ≠ .discInd → exec .discInd s = .next s) ∧ (s.op ≠ .close → exec .close s = .next s) ∧
    (s.op ≠ .dataReq → exec (.dataReq len) s = .next s) ∧
    (s.op = .connInd → s.phase ≠ .wait → exec .connInd s = .fault .noEngineStep) ∧
    (s.op = .discInd → s.phase ≠ .wait → exec .discInd s = .fault .noEngineStep) ∧
    (s.op = .dataReq → s.phase ≠ .pollSync → s.phase ≠ .loop → exec (.dataReq len) s = .fault .noEngineStep)

/-- CONN_IND's engine step, by what its `RxAttempt` received (R100), with the type codes of R145. An engine step as
one execution is the model's choice (log 9). -/
def Obligations.ConnIndStep : Prop :=
  ∀ s t : State, s.busy = true → s.op = .connInd → s.phase = .wait → t = (rxAttempt s).2 →
    (receiveFrame s.stationAddr (rxAttempt s).1 = .retry → exec .connInd s = .next t) ∧
    (∀ a ty, receiveFrame s.stationAddr (rxAttempt s).1 = .malformed a ty →
      exec .connInd s = .next { t with
        resCode := .decodeFailure, resValue := a, resDiagKind := .type
        resDiag := match ty with
          | some .i => 0
          | some .s => 1
          | some .u => 2
          | none => 3
        resultValid := true, op := .idle, phase := .none, busy := false }) ∧
    (∀ a ty c info, receiveFrame s.stationAddr (rxAttempt s).1 = .frame a ty c info → ty ≠ .u →
      exec .connInd s = .next { t with
        resCode := .unexpectedFrameReceived, resValue := a, resDiagKind := .type, resDiag := if ty = .i then 0 else 1
        resultValid := true, op := .idle, phase := .none, busy := false }) ∧
    (∀ a c info, receiveFrame s.stationAddr (rxAttempt s).1 = .frame a .u c info → ctrlMod c ≠ 1 →
      exec .connInd s = .next { t with
        resCode := .unexpectedUFrameReceived, resValue := a, resDiagKind := .mod, resDiag := ctrlMod c
        resultValid := true, op := .idle, phase := .none, busy := false }) ∧
    (∀ a c info, receiveFrame s.stationAddr (rxAttempt s).1 = .frame a .u c info → ctrlMod c = 1 →
      exec .connInd s = .next { t with
        connState := .awaitingResponse
        resCode := .srvSuccessful, resValue := a, resDiagKind := .none, resDiag := 0
        resultValid := true, op := .idle, phase := .none, busy := false })

/-- DISC_IND's engine step (R102), with the type codes of R145; it transmits nothing (R103). An engine step as one
execution is the model's choice (log 9). -/
def Obligations.DiscIndStep : Prop :=
  ∀ s t : State, s.busy = true → s.op = .discInd → s.phase = .wait → t = (rxAttempt s).2 →
    (receiveFrame s.stationAddr (rxAttempt s).1 = .retry → exec .discInd s = .next t) ∧
    (∀ a ty, receiveFrame s.stationAddr (rxAttempt s).1 = .malformed a ty →
      exec .discInd s = .next { t with
        resCode := .decodeFailure, resValue := a, resDiagKind := .type
        resDiag := match ty with
          | some .i => 0
          | some .s => 1
          | some .u => 2
          | none => 3
        resultValid := true, op := .idle, phase := .none, busy := false }) ∧
    (∀ a ty c info, receiveFrame s.stationAddr (rxAttempt s).1 = .frame a ty c info → ty ≠ .u →
      exec .discInd s = .next { t with
        resCode := .unexpectedFrameReceived, resValue := a, resDiagKind := .type, resDiag := if ty = .i then 0 else 1
        resultValid := true, op := .idle, phase := .none, busy := false }) ∧
    (∀ a c info, receiveFrame s.stationAddr (rxAttempt s).1 = .frame a .u c info → ctrlMod c ≠ 2 →
      exec .discInd s = .next { t with
        resCode := .unexpectedUFrameReceived, resValue := a, resDiagKind := .mod, resDiag := ctrlMod c
        resultValid := true, op := .idle, phase := .none, busy := false }) ∧
    (∀ a c info, receiveFrame s.stationAddr (rxAttempt s).1 = .frame a .u c info → ctrlMod c = 2 →
      exec .discInd s = .next { t with
        connState := .disconnected
        resCode := .srvSuccessful, resValue := a, resDiagKind := .none, resDiag := 0
        resultValid := true, op := .idle, phase := .none, busy := false }) ∧
    (∀ v, exec .discInd s = .next v → v.tx = s.tx)

/-- CONN_RESP's engine step (R101): the UA with UA_PF, the window renumbered, CONNECTED; SDU_LEN, FRAG_TOTAL and
FRAG_NEXT keep their values and nothing is received. An engine step as one execution is the model's choice (log 9). -/
def Obligations.ConnRespStep : Prop :=
  ∀ s : State, s.busy = true → s.op = .connResp →
    exec .connResp s = .next { s with
      tx := s.tx ++ [.frame (buildU s.stationAddr 6 s.params.uaPf)]
      vs := 0, vr := 0, rhs := BitVec.ofNat 3 (s.w.toNat % 8), fb := [], connState := .connected
      resCode := .srvSuccessful, resValue := s.stationAddr, resDiagKind := .none, resDiag := 0
      resultValid := true, op := .idle, phase := .none, busy := false }

/-- CLOSE's engine step (R104). ChannelClose is the marker alone (log 22). -/
def Obligations.CloseStep : Prop :=
  ∀ s : State, s.busy = true → s.op = .close →
    exec .close s = .next { s with
      tx := s.tx ++ [.closed], closed := true, connState := .disconnected
      resCode := .srvSuccessful, resValue := 0, resDiagKind := .none, resDiag := 0
      resultValid := true, op := .idle, phase := .none, busy := false }

/-- POLL_SYNC's step (R121): only an RR with P/F = 1 starts the loop; nothing else changes and nothing is sent. An
engine step as one execution is the model's choice (log 9). -/
def Obligations.PollSyncStep : Prop :=
  ∀ (s t : State) (len : BitVec 16), s.busy = true → s.op = .dataReq → s.phase = .pollSync → t = (rxAttempt s).2 →
    (∀ nr, receiveAck s.stationAddr (rxAttempt s).1 = some ⟨true, nr⟩ →
      exec (.dataReq len) s = .next { t with phase := .loop }) ∧
    ((∀ nr, receiveAck s.stationAddr (rxAttempt s).1 ≠ some ⟨true, nr⟩) → exec (.dataReq len) s = .next t)

/-- A loop step that finds FB empty and every fragment sent completes, without transmitting or receiving (R122, R135).
An engine step as one execution is the model's choice (log 9). -/
def Obligations.LoopCompletes : Prop :=
  ∀ (s : State) (len : BitVec 16), s.busy = true → s.op = .dataReq → s.phase = .loop →
    s.fb = [] → s.fragNext = s.fragTotal →
    exec (.dataReq len) s = .next { s with
      resCode := .srvSuccessful, resValue := 0, resDiagKind := .none, resDiag := 0
      resultValid := true, op := .idle, phase := .none, busy := false }

/-- A loop step with work left transmits, then makes one receive attempt and acknowledges; where the transmission
faults, so does the step (R122, R53, R44). The answer is drawn before the transmission (log 21). -/
def Obligations.LoopTransmitsThenAcknowledges : Prop :=
  ∀ (s : State) (len : BitVec 16), s.busy = true → s.op = .dataReq → s.phase = .loop →
    ¬ (s.fb = [] ∧ s.fragNext = s.fragTotal) →
    (∀ u, txSubStep (rxAttempt s).2 = .ok u →
      ∃ t, ackSubStep (receiveAck s.stationAddr (rxAttempt s).1) u = .ok t ∧ exec (.dataReq len) s = .next t) ∧
    (∀ e, txSubStep (rxAttempt s).2 = .error e → exec (.dataReq len) s = .fault e)

/-- What a transmit sub-step does (R123 to R127): nothing when the window is closed or nothing is to be sent; else the
stored frame at `off` again, or the next fragment built, sent and pushed; then VS advances. A first transmission
faults on an unwritten SDU byte (R44), then on a full FB (R45). The fault on a full FB is the model's choice (log 13).
-/
def Obligations.TransmitSubStep : Prop :=
  ∀ s : State,
    let off := (s.vs - (s.rhs - BitVec.ofNat 3 (s.w.toNat % 8))).toNat
    let bytes := memoryRange s.sdu (64 * s.fragNext.toNat) (min 64 (s.sduLen.toNat - 64 * s.fragNext.toNat))
    ((s.vs = s.rhs ∨ (s.fb.length ≤ off ∧ s.fragTotal.toNat ≤ s.fragNext.toNat)) → txSubStep s = .ok s) ∧
    (∀ f, s.vs ≠ s.rhs → s.fb[off]? = some f →
      txSubStep s = .ok { s with tx := s.tx ++ [.frame f], vs := s.vs + 1 }) ∧
    (s.vs ≠ s.rhs → s.fb.length ≤ off → s.fragNext.toNat < s.fragTotal.toNat →
      (bytes = none → txSubStep s = .error .unwrittenSduByte) ∧
      (∀ ds, bytes = some ds → s.w.toNat ≤ s.fb.length → txSubStep s = .error .frameBufferBounds) ∧
      (∀ ds f, bytes = some ds → s.fb.length < s.w.toNat →
        f = buildI s.stationAddr (infoBits ds) s.vs (decide (s.fragNext.toNat + 1 = s.fragTotal.toNat)) s.vr →
        txSubStep s = .ok { s with
          tx := s.tx ++ [.frame f], fb := s.fb ++ [f], fragNext := s.fragNext + 1, vs := s.vs + 1 }))

/-- The acknowledgment sub-step (R128 to R134): an N(R) outside the window is ignored, one at the left edge goes back,
any other retires c frames, moves the left edge to it, and realigns VS if it was passed. P/F plays no part. -/
def Obligations.AcknowledgeSubStep : Prop :=
  ∀ (s : State) (pf : Bool) (nr : SeqNum),
    let le := s.rhs - BitVec.ofNat 3 (s.w.toNat % 8)
    let c := (nr - le).toNat
    ackSubStep none s = .ok s ∧
    (s.fb.length < c → ackSubStep (some ⟨pf, nr⟩) s = .ok s) ∧
    (c = 0 → ackSubStep (some ⟨pf, nr⟩) s = .ok { s with vs := le }) ∧
    (1 ≤ c → c ≤ s.fb.length →
      ∃ t, ackSubStep (some ⟨pf, nr⟩) s = .ok t ∧
        t = { s with
          fb := s.fb.drop c, rhs := s.rhs + BitVec.ofNat 3 c
          vs := if (s.vs - le).toNat < c then nr else s.vs } ∧
        leftEdge t = nr ∧ (c ≤ (s.vs - le).toNat → windowOffset t = (s.vs - le).toNat - c))

/-! ### Frame kinds, by the phase that receives them -/

/-- An SNRM completes CONN_IND (R100), is the wrong U-frame for DISC_IND (R102), and is discarded in POLL_SYNC (R114,
R175). That a frame kind runs as the engine step that received it is the model's choice (log 9, 10). -/
def Obligations.SnrmArrives : Prop :=
  ∀ (pf : Bool) (s : State), s.busy = true →
    (s.op = .connInd → s.phase = .wait → exec (.snrm pf) s = .next { s with
      connState := .awaitingResponse
      resCode := .srvSuccessful, resValue := s.stationAddr, resDiagKind := .none, resDiag := 0
      resultValid := true, op := .idle, phase := .none, busy := false }) ∧
    (s.op = .discInd → s.phase = .wait → exec (.snrm pf) s = .next { s with
      resCode := .unexpectedUFrameReceived, resValue := s.stationAddr, resDiagKind := .mod, resDiag := 1
      resultValid := true, op := .idle, phase := .none, busy := false }) ∧
    (s.op = .dataReq → s.phase = .pollSync → exec (.snrm pf) s = .next s)

/-- A DISC completes DISC_IND (R102), is the wrong U-frame for CONN_IND (R100), and is discarded in POLL_SYNC. A frame
kind as in log 9, 10. -/
def Obligations.DiscArrives : Prop :=
  ∀ (pf : Bool) (s : State), s.busy = true →
    (s.op = .discInd → s.phase = .wait → exec (.disc pf) s = .next { s with
      connState := .disconnected
      resCode := .srvSuccessful, resValue := s.stationAddr, resDiagKind := .none, resDiag := 0
      resultValid := true, op := .idle, phase := .none, busy := false }) ∧
    (s.op = .connInd → s.phase = .wait → exec (.disc pf) s = .next { s with
      resCode := .unexpectedUFrameReceived, resValue := s.stationAddr, resDiagKind := .mod, resDiag := 2
      resultValid := true, op := .idle, phase := .none, busy := false }) ∧
    (s.op = .dataReq → s.phase = .pollSync → exec (.disc pf) s = .next s)

/-- A UA, and every other modifier, is an unexpected U-frame for either indication, with its modifier as the
diagnostic (R69, R100, R102, R145), and is discarded in POLL_SYNC. A frame kind as in log 9, 10. -/
def Obligations.OtherUFramesArrive : Prop :=
  ∀ (s : State) (i : Instr) (mod : BitVec 5),
    ((∃ pf, i = .ua pf ∧ mod = 6) ∨
      (∃ m1 pf m2, i = .uOther m1 pf m2 ∧ i.wellFormed = true ∧ mod = m1 ++ m2)) → s.busy = true →
    ((s.op = .connInd ∨ s.op = .discInd) → s.phase = .wait → exec i s = .next { s with
      resCode := .unexpectedUFrameReceived, resValue := s.stationAddr, resDiagKind := .mod, resDiag := mod
      resultValid := true, op := .idle, phase := .none, busy := false }) ∧
    (s.op = .dataReq → s.phase = .pollSync → exec i s = .next s)

/-- An S-frame, RR included, is an unexpected frame of type S for either indication (R63, R69, R100, R102). A frame
kind as in log 9, 10. -/
def Obligations.SFramesAtIndications : Prop :=
  ∀ (s : State) (i : Instr) (pf : Bool) (nr : SeqNum),
    (i = .rr pf nr ∨ i = .rnr pf nr ∨ i = .rej pf nr ∨ i = .srej pf nr) → s.busy = true →
    (s.op = .connInd ∨ s.op = .discInd) → s.phase = .wait → exec i s = .next { s with
      resCode := .unexpectedFrameReceived, resValue := s.stationAddr, resDiagKind := .type, resDiag := 1
      resultValid := true, op := .idle, phase := .none, busy := false }

/-- An I-frame is an unexpected frame of type I for either indication (R100, R102), and is discarded in POLL_SYNC. A
frame kind as in log 9, 10. -/
def Obligations.IFramesArrive : Prop :=
  ∀ (s : State) (ns : SeqNum) (pf : Bool) (nr : SeqNum), s.busy = true →
    ((s.op = .connInd ∨ s.op = .discInd) → s.phase = .wait → exec (.iFrame ns pf nr) s = .next { s with
      resCode := .unexpectedFrameReceived, resValue := s.stationAddr, resDiagKind := .type, resDiag := 0
      resultValid := true, op := .idle, phase := .none, busy := false }) ∧
    (s.op = .dataReq → s.phase = .pollSync → exec (.iFrame ns pf nr) s = .next s)

/-- An RR with P/F = 1 ends POLL_SYNC; with P/F = 0 it is ignored; its N(R) is not used. RNR, REJ and SREJ are
discarded there (R113, R114, R121). A frame kind as in log 9, 10. -/
def Obligations.SFramesAtPollSync : Prop :=
  ∀ (s : State) (pf : Bool) (nr : SeqNum), s.busy = true → s.op = .dataReq → s.phase = .pollSync →
    exec (.rr true nr) s = .next { s with phase := .loop } ∧
    exec (.rr false nr) s = .next s ∧
    exec (.rnr pf nr) s = .next s ∧ exec (.rej pf nr) s = .next s ∧ exec (.srej pf nr) s = .next s

/-- In the loop an RR acknowledges after the step's transmission, whatever its P/F (R122, R128, R134), and every other
frame kind is discarded (R115): the step transmits only. Where the transmission faults, so does the step (R44). A
frame kind as in log 9, 10. -/
def Obligations.FramesInLoop : Prop :=
  ∀ s : State, s.busy = true → s.op = .dataReq → s.phase = .loop → ¬ (s.fb = [] ∧ s.fragNext = s.fragTotal) →
    (∀ u, txSubStep s = .ok u →
      (∀ pf nr, ∃ t, ackSubStep (some ⟨true, nr⟩) u = .ok t ∧ exec (.rr pf nr) s = .next t) ∧
      (∀ ns pf nr, exec (.iFrame ns pf nr) s = .next u) ∧
      (∀ pf nr, exec (.rnr pf nr) s = .next u ∧ exec (.rej pf nr) s = .next u ∧ exec (.srej pf nr) s = .next u) ∧
      (∀ pf, exec (.snrm pf) s = .next u ∧ exec (.disc pf) s = .next u ∧ exec (.ua pf) s = .next u) ∧
      (∀ m1 pf m2, exec (.uOther m1 pf m2) s = .next u)) ∧
    (∀ e c, txSubStep s = .error e → exec (decodeControl c) s = .fault e)

/-- In a state whose engine step makes no receive attempt, a frame has no effect (R42, R164, R122; log 11). -/
def Obligations.NoAttemptNoReception : Prop :=
  ∀ (s : State) (c : BitVec 8),
    (s.busy = false ∨ s.op = .connResp ∨ s.op = .close ∨
      (s.op = .dataReq ∧ s.phase = .loop ∧ s.fb = [] ∧ s.fragNext = s.fragTotal)) →
    exec (decodeControl c) s = .next s

/-! ### Steps -/

/-- A step runs the decoded instruction: the word at the ready port, the frame that answers a receive attempt, or the
command in OP (R26, R43, R72; log 9, 10). First what the engine's turn is (log 5), and which engine steps make a
receive attempt (R42, R100, R102, R121, R122). -/
def Obligations.StepRunsDecodedInstruction : Prop :=
  (∀ s : State, (s.env = [] → atTurn s = some s) ∧
    (∀ es, s.env = .turn :: es → atTurn s = some { s with env := es }) ∧
    (∀ e es, s.env = e :: es → e ≠ .turn → atTurn s = none)) ∧
  (∀ s : State, rxDue s = true ↔ s.busy = true ∧
    (((s.op = .connInd ∨ s.op = .discInd) ∧ s.phase = .wait) ∨
      (s.op = .dataReq ∧ s.phase = .pollSync) ∨
      (s.op = .dataReq ∧ s.phase = .loop ∧ ¬ (s.fb = [] ∧ s.fragNext = s.fragTotal)))) ∧
  ∀ s u : State, atTurn s = some u →
    (∀ w ws i, u.busy = false → u.port = w :: ws → decodeCommand w = .ok i →
      step s = exec i { u with port := ws }) ∧
    (∀ a ty c info, u.busy = true → rxDue u = true →
      receiveFrame u.stationAddr (rxAttempt u).1 = .frame a ty c info →
      step s = exec (decodeControl c) (rxAttempt u).2) ∧
    (∀ i, u.busy = true → rxDue u = false → runningCommand u = some i → step s = exec i u)

/-- Whatever answers a receive attempt, a busy turn is the engine step of the command in OP (R26), written out for
each of the five: running frames as instructions is the spec's step by OP and PHASE. Frames as instructions are the
model's choice (log 9, 10). -/
def Obligations.BusyTurnIsRunningCommandStep : Prop :=
  ∀ s u : State, atTurn s = some u → u.busy = true →
    (∀ i, runningCommand u = some i → step s = exec i u) ∧
    (u.op = .connInd → step s = exec .connInd u) ∧
    (u.op = .connResp → step s = exec .connResp u) ∧
    (u.op = .discInd → step s = exec .discInd u) ∧
    (u.op = .dataReq → step s = exec (.dataReq u.sduLen) u) ∧
    (u.op = .close → step s = exec .close u)

/-- What RxAttempt, ReceiveFrame and ReceiveAck answer (R42, R111, R113, R114): the next listed answer, which is
consumed, or the free value where none is listed (the list and the free value are the model's, log 4); Classify's
outcome, or Retry where it is NotMine or there is no frame; an RR's P/F and N(R), and nothing but an RR. So a frame
not addressed to this station, or too short to hold an address, acts as no frame at all (R111, R116). -/
def Obligations.ForeignFramesActAsNone : Prop :=
  (∀ s x xs, s.rx = x :: xs → rxAttempt s = (x, { s with rx := xs, rxDrawn := s.rxDrawn + 1 })) ∧
  (∀ s, s.rx = [] → rxAttempt s = (Config.channelAnswer s.rxDrawn, { s with rxDrawn := s.rxDrawn + 1 })) ∧
  (∀ a, receiveFrame a none = .retry) ∧
  (∀ a b,
    (classify a b = .notMine → receiveFrame a (some b) = .retry) ∧
    (∀ a' ty, classify a b = .malformed a' ty → receiveFrame a (some b) = .malformed a' ty) ∧
    (∀ a' ty c info, classify a b = .frame a' ty c info → receiveFrame a (some b) = .frame a' ty c info)) ∧
  (∀ a x ack, receiveAck a x = some ack ↔
    ∃ a' c info, receiveFrame a x = .frame a' .s c info ∧ ctrlS c = 0 ∧ ack = ⟨ctrlPF c, ctrlNR c⟩) ∧
  ∀ (s u : State) (b : Bits) (rest : List (Option Bits)),
    atTurn s = some u → rxDue u = true → (b.length < 16 ∨ parseAddress b ≠ u.stationAddr) →
    step { s with rx := some b :: rest } = step { s with rx := none :: rest }

/-- What no instruction changes: the configuration (R16, R17, R18, R33), the SDU buffer byte by byte, which only the
host writes (R16, R44), the host port and the environment (R43); CMD_ERR is never cleared (R151). The model's choices:
the parameters as constants of State (log 2, 3), the lists env, port and reads (log 5, 6, 8), what one execution is
(log 9). -/
def Obligations.ExecFrame : Prop :=
  ∀ (i : Instr) (s t : State), exec i s = .next t →
    t.params = s.params ∧ t.stationAddr = s.stationAddr ∧ t.w = s.w ∧ t.cfgErr = s.cfgErr ∧
    (∀ a, sduRead t a = sduRead s a) ∧ t.port = s.port ∧ t.env = s.env ∧ t.reads = s.reads ∧
    (s.cmdErr = true → t.cmdErr = true)

/-- CONN_STATE changes only by the transitions of R98, and DATA_REQ never changes it. -/
def Obligations.ConnStateTransitions : Prop :=
  ∀ (i : Instr) (s t : State), exec i s = .next t →
    t.connState = s.connState ∨
    (t.resCode = .srvSuccessful ∧ t.resultValid = true ∧ s.busy = true ∧
      ((s.op = .connInd ∧ t.connState = .awaitingResponse) ∨ (s.op = .connResp ∧ t.connState = .connected) ∨
        (s.op = .discInd ∧ t.connState = .disconnected) ∨ (s.op = .close ∧ t.connState = .disconnected)))

/-- VS, RHS and FB are written only by CONN_RESP and DATA_REQ's loop, VR by CONN_RESP, SDU_LEN and FRAG_TOTAL by
DATA_REQ's acceptance, FRAG_NEXT by that and the loop (R16, R19, R20, R22, R23, R28): POLL_SYNC, a held command and a
refused one write none of them. -/
def Obligations.WindowAndTransferWriters : Prop :=
  ∀ (i : Instr) (s t : State), exec i s = .next t →
    (¬ (s.busy = true ∧ (s.op = .connResp ∨ (s.op = .dataReq ∧ s.phase = .loop))) →
      t.vs = s.vs ∧ t.rhs = s.rhs ∧ t.fb = s.fb) ∧
    (¬ (s.busy = true ∧ s.op = .connResp) → t.vr = s.vr) ∧
    (s.busy = true → t.sduLen = s.sduLen ∧ t.fragTotal = s.fragTotal) ∧
    (¬ (s.busy = true ∧ s.op = .dataReq ∧ s.phase = .loop) →
      (s.busy = true ∨ (∀ len, i ≠ .dataReq len) ∨ s.cfgErr = true ∨ s.closed = true ∨
        ∃ len, i = .dataReq len ∧ s.params.maxSduBytes < len.toNat) →
      t.sduLen = s.sduLen ∧ t.fragTotal = s.fragTotal ∧ t.fragNext = s.fragNext)

/-- The result registers change only when a running command completes: BUSY was 1, RESULT_VALID becomes 1 and the
engine idle (R29, R30, R146). -/
def Obligations.ResultWrittenAtCompletion : Prop :=
  ∀ (i : Instr) (s t : State), exec i s = .next t →
    (t.resCode = s.resCode ∧ t.resValue = s.resValue ∧ t.resDiagKind = s.resDiagKind ∧ t.resDiag = s.resDiag) ∨
    (s.busy = true ∧ t.resultValid = true ∧ t.op = .idle ∧ t.phase = .none ∧ t.busy = false)

/-- A failed indication changes only the result registers, RESULT_VALID, OP, PHASE and BUSY; the frame is consumed
(R106). An engine step as one execution is the model's choice (log 9). -/
def Obligations.FailedIndicationFrame : Prop :=
  ∀ (i : Instr) (s t : State), s.busy = true → s.phase = .wait →
    ((i = .connInd ∧ s.op = .connInd) ∨ (i = .discInd ∧ s.op = .discInd)) → exec i s = .next t →
    t.busy = false → t.resCode ≠ .srvSuccessful →
    t = { (rxAttempt s).2 with
      resCode := t.resCode, resValue := t.resValue, resDiagKind := t.resDiagKind, resDiag := t.resDiag
      resultValid := true, op := .idle, phase := .none, busy := false }

/-- A step appends at most one entry to the TX history and removes none (R41): one frame in a loop step (R123), one UA
(R101), one CLOSED marker (R104), one RESET marker (R163). -/
def Obligations.TxHistoryGrowsByAtMostOne : Prop :=
  ∀ s t : State, step s = .next t → t.tx = s.tx ∨ ∃ e, t.tx = s.tx ++ [e]

/-- CMD_ERR is sticky and CFG_ERR is written by reset only: no step but a reset, which is a reset event coming next
(log 5), clears or changes them (R33, R151). -/
def Obligations.ErrorFlagsStickyUntilReset : Prop :=
  (∀ s : State, resetNext s = true ↔ ∃ a n es, s.env = .reset a n :: es) ∧
  ∀ s t : State, step s = .next t → resetNext s = false →
    (s.cmdErr = true → t.cmdErr = true) ∧ t.cfgErr = s.cfgErr ∧ t.stationAddr = s.stationAddr ∧ t.w = s.w

/-- After CLOSE, until a reset, the engine stays closed and idle and neither transmits nor makes a receive attempt
(R32, R104): no answer is drawn, listed or free (log 4). The invariant says that a closed engine is idle. -/
def Obligations.ClosedIsFinal : Prop :=
  ∀ s t : State, EngineInv s → s.closed = true → step s = .next t → resetNext s = false →
    t.closed = true ∧ t.busy = false ∧ t.tx = s.tx ∧ t.rx = s.rx ∧ t.rxDrawn = s.rxDrawn

/-! ### The invariant and its consequences -/

/-- The state right after reset satisfies the invariant. Its inputs and parameters are the model's choice (log 1, 2,
3). -/
def Obligations.ResetStateSatisfiesInvariant : Prop := EngineInv State.reset

/-- So does every state a reset leaves, whatever the inputs, the parameters in their range, and the environment. The
invariant is the model's own collection of the rules it names. -/
def Obligations.EveryResetEstablishesInvariant : Prop := ∀ s : State, Booted s → EngineInv s

/-- Every step keeps the invariant: the window invariant of R24, the contents of FB (R23), the agreement of OP, PHASE,
BUSY and RESULT_VALID, VR = 0 (R22), the allowed results (R145), the canonical SDU buffer. -/
def Obligations.StepKeepsInvariant : Prop := ∀ s t : State, EngineInv s → step s = .next t → EngineInv t

/-- From a state of the invariant a step is refused by nothing and faults in one way: DATA_REQ's loop first sends a
fragment with an unwritten SDU byte (R39, R44, R45, R143). That an idle engine's step answers the same state is the
model's choice (log 7); the fault is log 14. -/
def Obligations.OnlyUnwrittenSduByteFaults : Prop :=
  ∀ s : State, EngineInv s →
    (∃ t, step s = .next t) ∨
    (step s = .fault .unwrittenSduByte ∧ s.op = .dataReq ∧ s.phase = .loop ∧
      s.fragNext.toNat < s.fragTotal.toNat ∧ fragmentBytes s s.fragNext.toNat = none)

/-- The window invariant in every reachable state under every host and channel (R24; part (c) with CFG_ERR = 0, log
15). -/
def Obligations.ReachableWindowInvariant : Prop :=
  ∀ s : State, Reachable s →
    s.fb.length ≤ s.w.toNat ∧ windowOffset s ≤ s.fb.length ∧
    (s.cfgErr = false → (s.vs ≠ s.rhs ↔ windowOffset s < s.w.toNat))

/-- In every reachable state: FB is empty whenever no command runs (R174), every frame in FB is at most 544 bits
(R23), and VR is 0 (R22). -/
def Obligations.ReachableBufferFacts : Prop :=
  ∀ s : State, Reachable s →
    (s.busy = false → s.fb = []) ∧ (∀ f ∈ s.fb, f.length ≤ 544) ∧ s.vr = 0

/-- The left edge (R21), the offset (R24) and the acknowledged count (R129), all modulo 8; and the half-open
convention across the wrap (R140): left edge 6, W = 4, four frames outstanding. -/
def Obligations.WraparoundCounts : Prop :=
  (∀ (s : State) (nr : SeqNum),
    (leftEdge s).toNat = (s.rhs.toNat + 8 - s.w.toNat % 8) % 8 ∧
    windowOffset s = (s.vs.toNat + 8 - (leftEdge s).toNat) % 8 ∧
    ackCount s nr = (nr.toNat + 8 - (leftEdge s).toNat) % 8) ∧
  ∀ s : State, s.w = 4 → s.rhs = 2 →
    leftEdge s = 6 ∧ ackCount s 7 = 1 ∧ ackCount s 0 = 2 ∧ ackCount s 2 = 4 ∧ ackCount s 6 = 0 ∧ ackCount s 3 = 5

/-- A full window with no acknowledgment stalls (R137): a loop step whose attempt yields no RR changes nothing but
what the attempt consumed. Turns as in log 5. -/
def Obligations.FullWindowStalls : Prop :=
  ∀ s u : State, atTurn s = some u → u.busy = true → u.op = .dataReq → u.phase = .loop →
    u.fb ≠ [] → u.vs = u.rhs → receiveAck u.stationAddr (rxAttempt u).1 = none →
    step s = .next (rxAttempt u).2

/-- Go-back-N (R125, R133): with VS at the left edge and n frames outstanding, n loop steps without an answer send the
n stored frames again, bit for bit and in order, and leave FB as it was. Answers and turns as in log 4, 5. -/
def Obligations.GoBackResendsBuffer : Prop :=
  ∀ (s : State) (rest : List (Option Bits)), EngineInv s → s.op = .dataReq → s.phase = .loop → s.env = [] →
    s.vs = leftEdge s → s.rx = List.replicate s.fb.length none ++ rest →
    ∃ t, Sys2Proof.core.run s.fb.length s = .next t ∧
      t.tx = s.tx ++ s.fb.map .frame ∧ t.fb = s.fb ∧ t.rhs = s.rhs ∧ t.fragNext = s.fragNext ∧
      t.vs = s.vs + BitVec.ofNat 3 s.fb.length ∧ t.rx = rest

/-- CONN_RESP completes in two turns from an idle engine (R72, R101, R146), with the UA sent and the engine connected.
Turns as in log 5. -/
def Obligations.ConnRespCompletesInTwoTurns : Prop :=
  ∀ (s : State) (ws : List (BitVec 32)), EngineInv s → s.env = [] → s.busy = false → s.cfgErr = false →
    s.closed = false → s.port = 0x00000002#32 :: ws →
    ∃ t, Sys2Proof.core.run 2 s = .next t ∧ t.resultValid = true ∧ t.resCode = .srvSuccessful ∧
      t.resValue = s.stationAddr ∧ t.connState = .connected ∧ t.busy = false ∧ t.port = ws ∧
      t.tx = s.tx ++ [.frame (buildU s.stationAddr 6 s.params.uaPf)] ∧
      t.vs = 0 ∧ leftEdge t = 0 ∧ t.fb = []

/-- The delivery property (R138): a DATA_REQ whose SDU is written, polled once and acknowledged frame by frame with
the next expected N(R), completes with success after one step for the poll, one for each fragment and one to complete;
the frames it sent carry the SDU exactly, in order, with consecutive N(S), and the final bit on the last only. Turns
and answers as in log 4, 5. -/
def Obligations.LosslessTransferDeliversSdu : Prop :=
  ∀ (s : State) (bytes : List Byte) (nr0 : SeqNum) (rest : List (Option Bits)),
    EngineInv s → s.op = .dataReq → s.phase = .pollSync → s.env = [] →
    memoryRange s.sdu 0 s.sduLen.toNat = some bytes →
    s.rx = some (buildFrame s.stationAddr (sControl codeRR true nr0) []) ::
      (List.range s.fragTotal.toNat).map
        (fun k => some (buildFrame s.stationAddr (sControl codeRR false (s.vs + BitVec.ofNat 3 (k + 1))) [])) ++ rest →
    ∃ (t : State) (infos : List Bits),
      Sys2Proof.core.run (s.fragTotal.toNat + 2) s = .next t ∧
      infos.length = s.fragTotal.toNat ∧ infos.flatten = infoBits bytes ∧
      t.tx = s.tx ++ infos.mapIdx (fun k info =>
        .frame (buildI s.stationAddr info (s.vs + BitVec.ofNat 3 k) (decide (k + 1 = s.fragTotal.toNat)) 0)) ∧
      t.resultValid = true ∧ t.resCode = .srvSuccessful ∧ t.busy = false ∧ t.fb = [] ∧ t.rx = rest

/-! ### The strings and ranges the other statements are written in -/

/-- Fields and sub-strings of bit strings (R9), the layout of a frame (R56), the fields of control fields (R59, R60,
R61, R65) and of command words (R70), the code of RR (R63), the information field of a byte list (R67), the byte an
SDU index has, and what a range and a fragment of the SDU buffer are (R44, R119): all their bytes are written, and
these are they. The buffer as a list with rising indexes is the model's. -/
def Obligations.StringsAndRangesMeanTheirBits : Prop :=
  (∀ (n : Nat) (v : BitVec n), (bitsOf v).length = n ∧ ∀ i, i < n → (bitsOf v)[i]? = some (v.getLsbD (n - 1 - i))) ∧
  (uint [] = 0 ∧ ∀ (x : Bool) (b : Bits), uint (x :: b) = x.toNat * 2 ^ b.length + uint b) ∧
  (∀ (b : Bits) (i : Nat), i < b.length → b[i]? = some (bitAt b i)) ∧
  (∀ (b : Bits) (i j k : Nat), (bitRange b i j)[k]? = if i + k ≤ j then b[i + k]? else none) ∧
  (∀ (a c : BitVec 8) (info : Bits), buildFrame a c info =
    [false, true, true, true, true, true, true, false] ++ bitsOf a ++ bitsOf c ++ info ++
      [false, true, true, true, true, true, true, false]) ∧
  (∀ b : Bits, 24 ≤ b.length → (ctrlOf b).toNat = uint (bitRange b 16 23)) ∧
  (∀ c : BitVec 8,
    (ctrlNS c).toNat = c.toNat / 16 % 8 ∧ ctrlPF c = decide (c.toNat / 8 % 2 = 1) ∧ (ctrlNR c).toNat = c.toNat % 8 ∧
    (ctrlS c).toNat = c.toNat / 16 % 4 ∧ (ctrlMod c).toNat = 8 * (c.toNat / 16 % 4) + c.toNat % 8) ∧
  (∀ (ns : SeqNum) (pf : Bool) (nr : SeqNum) (code : BitVec 2) (mod : BitVec 5),
    (iControl ns pf nr).toNat = 16 * ns.toNat + 8 * pf.toNat + nr.toNat ∧
    (sControl code pf nr).toNat = 128 + 16 * code.toNat + 8 * pf.toNat + nr.toNat ∧
    (uControl mod pf).toNat = 192 + 16 * (mod.toNat / 8) + 8 * pf.toNat + mod.toNat % 8) ∧
  codeRR = 0 ∧
  (∀ w : BitVec 32, (cmdOpc w).toNat = w.toNat % 8 ∧ (cmdRsv w).toNat = w.toNat / 8 % 8192 ∧
    (cmdLen w).toNat = w.toNat / 65536) ∧
  (∀ ds : List Byte, infoBits ds = ds.flatMap fun d =>
    [d.getLsbD 7, d.getLsbD 6, d.getLsbD 5, d.getLsbD 4, d.getLsbD 3, d.getLsbD 2, d.getLsbD 1, d.getLsbD 0]) ∧
  (∀ m : Memory, memoryWf m ↔ (m.map (·.1)).Pairwise (· < ·)) ∧
  (∀ (m : Memory) (i : Nat) (v : Byte), memoryWf m → (memoryRead m i = some v ↔ (i, v) ∈ m)) ∧
  (∀ (m : Memory) (i k : Nat) (ds : List Byte), memoryRange m i k = some ds ↔
    ds.length = k ∧ ∀ j, j < k → memoryRead m (i + j) = ds[j]?) ∧
  ∀ (s : State) (i : Nat), sduRead s i = memoryRead s.sdu i ∧
    fragmentBytes s i = memoryRange s.sdu (64 * i) (min 64 (s.sduLen.toNat - 64 * i))
end

