-- ==== Sys2Proof/Laws/Memory.lean ====
section
/-! SUPPORT. The SDU buffer (20_memory.md R44): a read after a write, the other bytes, and the canonical form. -/

namespace Sys2Proof.Machine

/-- A read at the written index gives the written byte. -/
@[simp] theorem memoryRead_write_same (m : Memory) (i : Nat) (v : Byte) : memoryRead (memoryWrite m i v) i = some v := by
  induction m with
  | nil => simp [memoryWrite, memoryRead]
  | cons x m ih =>
    obtain ⟨a, y⟩ := x
    unfold memoryWrite
    split
    · simp [memoryRead]
    · split
      · simp [memoryRead]
      · rename_i h1 h2
        simp [memoryRead, Ne.symm h2, ih]

/-- A write changes no other byte. -/
theorem memoryRead_write_other (m : Memory) {i j : Nat} (v : Byte) (h : j ≠ i) :
    memoryRead (memoryWrite m i v) j = memoryRead m j := by
  induction m with
  | nil => simp [memoryWrite, memoryRead, Ne.symm h]
  | cons x m ih =>
    obtain ⟨a, y⟩ := x
    unfold memoryWrite
    split
    · simp [memoryRead, Ne.symm h]
    · split
      · rename_i h2; subst h2; simp [memoryRead, Ne.symm h]
      · simp [memoryRead, ih]

/-- The cells of a written buffer: old ones and the new one. -/
theorem mem_memoryWrite {m : Memory} {i : Nat} {v : Byte} {x : Host.Cell} (h : x ∈ memoryWrite m i v) :
    x = (i, v) ∨ x ∈ m := by
  induction m with
  | nil => simpa [memoryWrite] using h
  | cons y m ih =>
    obtain ⟨a, z⟩ := y
    unfold memoryWrite at h
    split at h
    · simpa using h
    · split at h
      · rcases List.mem_cons.mp h with h | h
        · exact .inl h
        · exact .inr (List.mem_cons_of_mem _ h)
      · rcases List.mem_cons.mp h with h | h
        · exact .inr (by simp [h])
        · rcases ih h with h | h
          · exact .inl h
          · exact .inr (List.mem_cons_of_mem _ h)

/-- A write keeps the canonical form. -/
theorem memoryWf_write {m : Memory} (h : memoryWf m) (i : Nat) (v : Byte) : memoryWf (memoryWrite m i v) := by
  induction m with
  | nil => simp [memoryWrite, memoryWf]
  | cons x m ih =>
    obtain ⟨a, y⟩ := x
    obtain ⟨hx, hm⟩ := List.pairwise_cons.mp h
    unfold memoryWrite
    split
    · rename_i hia
      refine List.pairwise_cons.mpr ⟨fun z hz => ?_, h⟩
      rcases List.mem_cons.mp hz with rfl | hz
      · exact hia
      · exact lt_trans hia (hx z hz)
    · split
      · rename_i h2; subst h2
        exact List.pairwise_cons.mpr ⟨hx, hm⟩
      · rename_i h1 h2
        refine List.pairwise_cons.mpr ⟨fun z hz => ?_, ih hm⟩
        rcases mem_memoryWrite hz with rfl | hz
        · show a < i; omega
        · exact hx z hz

/-- The empty buffer is canonical. -/
theorem memoryWf_nil : memoryWf [] := List.Pairwise.nil

/-- A range is the bytes at its indexes. -/
theorem memoryRange_some {m : Memory} {i k : Nat} {bytes : List Byte} (h : memoryRange m i k = some bytes) :
    bytes.length = k ∧ ∀ j, j < k → memoryRead m (i + j) = bytes[j]? := by
  induction k generalizing i bytes with
  | zero => cases h; simp
  | succ k ih =>
    unfold memoryRange at h
    split at h
    · rename_i v vs hv hvs
      cases h
      obtain ⟨hl, hr⟩ := ih hvs
      refine ⟨by simp [hl], fun j hj => ?_⟩
      cases j with
      | zero => simpa using hv
      | succ j => simpa [Nat.add_assoc, Nat.add_comm 1 j] using hr j (by omega)
    · cases h

/-- A range all of whose bytes are written has a value. -/
theorem memoryRange_isSome {m : Memory} {i k : Nat} (h : ∀ j, j < k → (memoryRead m (i + j)).isSome) :
    (memoryRange m i k).isSome := by
  induction k generalizing i with
  | zero => rfl
  | succ k ih =>
    have h0 := h 0 (by omega)
    have hk : (memoryRange m (i + 1) k).isSome := ih fun j hj => by
      have := h (j + 1) (by omega)
      rwa [show i + 1 + j = i + (j + 1) by omega]
    obtain ⟨v, hv⟩ := Option.isSome_iff_exists.mp h0
    obtain ⟨vs, hvs⟩ := Option.isSome_iff_exists.mp hk
    unfold memoryRange
    simp only [Nat.add_zero] at hv
    rw [hv, hvs]; rfl

end Sys2Proof.Machine
end

