-- ==== Sys2Proof/Laws/State.lean ====
section
/-! SUPPORT. One lemma per field per update: what each shared operation writes and leaves. True by rfl, simp lemmas. -/

namespace Sys2Proof.Machine

variable (s : State)

/-! ### transmit -/
@[simp] theorem transmit_params (f : Bits) : (transmit f s).params = s.params := rfl
@[simp] theorem transmit_stationAddr (f : Bits) : (transmit f s).stationAddr = s.stationAddr := rfl
@[simp] theorem transmit_w (f : Bits) : (transmit f s).w = s.w := rfl
@[simp] theorem transmit_cfgErr (f : Bits) : (transmit f s).cfgErr = s.cfgErr := rfl
@[simp] theorem transmit_vs (f : Bits) : (transmit f s).vs = s.vs := rfl
@[simp] theorem transmit_vr (f : Bits) : (transmit f s).vr = s.vr := rfl
@[simp] theorem transmit_rhs (f : Bits) : (transmit f s).rhs = s.rhs := rfl
@[simp] theorem transmit_fb (f : Bits) : (transmit f s).fb = s.fb := rfl
@[simp] theorem transmit_connState (f : Bits) : (transmit f s).connState = s.connState := rfl
@[simp] theorem transmit_op (f : Bits) : (transmit f s).op = s.op := rfl
@[simp] theorem transmit_phase (f : Bits) : (transmit f s).phase = s.phase := rfl
@[simp] theorem transmit_sduLen (f : Bits) : (transmit f s).sduLen = s.sduLen := rfl
@[simp] theorem transmit_fragTotal (f : Bits) : (transmit f s).fragTotal = s.fragTotal := rfl
@[simp] theorem transmit_fragNext (f : Bits) : (transmit f s).fragNext = s.fragNext := rfl
@[simp] theorem transmit_resCode (f : Bits) : (transmit f s).resCode = s.resCode := rfl
@[simp] theorem transmit_resValue (f : Bits) : (transmit f s).resValue = s.resValue := rfl
@[simp] theorem transmit_resDiagKind (f : Bits) : (transmit f s).resDiagKind = s.resDiagKind := rfl
@[simp] theorem transmit_resDiag (f : Bits) : (transmit f s).resDiag = s.resDiag := rfl
@[simp] theorem transmit_resultValid (f : Bits) : (transmit f s).resultValid = s.resultValid := rfl
@[simp] theorem transmit_busy (f : Bits) : (transmit f s).busy = s.busy := rfl
@[simp] theorem transmit_closed (f : Bits) : (transmit f s).closed = s.closed := rfl
@[simp] theorem transmit_cmdErr (f : Bits) : (transmit f s).cmdErr = s.cmdErr := rfl
@[simp] theorem transmit_cmdErrReason (f : Bits) : (transmit f s).cmdErrReason = s.cmdErrReason := rfl
@[simp] theorem transmit_sdu (f : Bits) : (transmit f s).sdu = s.sdu := rfl
@[simp] theorem transmit_tx (f : Bits) : (transmit f s).tx = s.tx ++ [.frame f] := rfl
@[simp] theorem transmit_port (f : Bits) : (transmit f s).port = s.port := rfl
@[simp] theorem transmit_rx (f : Bits) : (transmit f s).rx = s.rx := rfl
@[simp] theorem transmit_rxDrawn (f : Bits) : (transmit f s).rxDrawn = s.rxDrawn := rfl
@[simp] theorem transmit_env (f : Bits) : (transmit f s).env = s.env := rfl
@[simp] theorem transmit_reads (f : Bits) : (transmit f s).reads = s.reads := rfl

/-! ### channelClose -/
@[simp] theorem channelClose_params : (channelClose s).params = s.params := rfl
@[simp] theorem channelClose_stationAddr : (channelClose s).stationAddr = s.stationAddr := rfl
@[simp] theorem channelClose_w : (channelClose s).w = s.w := rfl
@[simp] theorem channelClose_cfgErr : (channelClose s).cfgErr = s.cfgErr := rfl
@[simp] theorem channelClose_vs : (channelClose s).vs = s.vs := rfl
@[simp] theorem channelClose_vr : (channelClose s).vr = s.vr := rfl
@[simp] theorem channelClose_rhs : (channelClose s).rhs = s.rhs := rfl
@[simp] theorem channelClose_fb : (channelClose s).fb = s.fb := rfl
@[simp] theorem channelClose_connState : (channelClose s).connState = s.connState := rfl
@[simp] theorem channelClose_op : (channelClose s).op = s.op := rfl
@[simp] theorem channelClose_phase : (channelClose s).phase = s.phase := rfl
@[simp] theorem channelClose_sduLen : (channelClose s).sduLen = s.sduLen := rfl
@[simp] theorem channelClose_fragTotal : (channelClose s).fragTotal = s.fragTotal := rfl
@[simp] theorem channelClose_fragNext : (channelClose s).fragNext = s.fragNext := rfl
@[simp] theorem channelClose_resCode : (channelClose s).resCode = s.resCode := rfl
@[simp] theorem channelClose_resValue : (channelClose s).resValue = s.resValue := rfl
@[simp] theorem channelClose_resDiagKind : (channelClose s).resDiagKind = s.resDiagKind := rfl
@[simp] theorem channelClose_resDiag : (channelClose s).resDiag = s.resDiag := rfl
@[simp] theorem channelClose_resultValid : (channelClose s).resultValid = s.resultValid := rfl
@[simp] theorem channelClose_busy : (channelClose s).busy = s.busy := rfl
@[simp] theorem channelClose_closed : (channelClose s).closed = s.closed := rfl
@[simp] theorem channelClose_cmdErr : (channelClose s).cmdErr = s.cmdErr := rfl
@[simp] theorem channelClose_cmdErrReason : (channelClose s).cmdErrReason = s.cmdErrReason := rfl
@[simp] theorem channelClose_sdu : (channelClose s).sdu = s.sdu := rfl
@[simp] theorem channelClose_tx : (channelClose s).tx = s.tx ++ [.closed] := rfl
@[simp] theorem channelClose_port : (channelClose s).port = s.port := rfl
@[simp] theorem channelClose_rx : (channelClose s).rx = s.rx := rfl
@[simp] theorem channelClose_rxDrawn : (channelClose s).rxDrawn = s.rxDrawn := rfl
@[simp] theorem channelClose_env : (channelClose s).env = s.env := rfl
@[simp] theorem channelClose_reads : (channelClose s).reads = s.reads := rfl

/-! ### complete -/
@[simp] theorem complete_params (c : ResCode) (v : BitVec 8) (k : DiagKind) (d : BitVec 5) : (complete c v k d s).params = s.params := rfl
@[simp] theorem complete_stationAddr (c : ResCode) (v : BitVec 8) (k : DiagKind) (d : BitVec 5) : (complete c v k d s).stationAddr = s.stationAddr := rfl
@[simp] theorem complete_w (c : ResCode) (v : BitVec 8) (k : DiagKind) (d : BitVec 5) : (complete c v k d s).w = s.w := rfl
@[simp] theorem complete_cfgErr (c : ResCode) (v : BitVec 8) (k : DiagKind) (d : BitVec 5) : (complete c v k d s).cfgErr = s.cfgErr := rfl
@[simp] theorem complete_vs (c : ResCode) (v : BitVec 8) (k : DiagKind) (d : BitVec 5) : (complete c v k d s).vs = s.vs := rfl
@[simp] theorem complete_vr (c : ResCode) (v : BitVec 8) (k : DiagKind) (d : BitVec 5) : (complete c v k d s).vr = s.vr := rfl
@[simp] theorem complete_rhs (c : ResCode) (v : BitVec 8) (k : DiagKind) (d : BitVec 5) : (complete c v k d s).rhs = s.rhs := rfl
@[simp] theorem complete_fb (c : ResCode) (v : BitVec 8) (k : DiagKind) (d : BitVec 5) : (complete c v k d s).fb = s.fb := rfl
@[simp] theorem complete_connState (c : ResCode) (v : BitVec 8) (k : DiagKind) (d : BitVec 5) : (complete c v k d s).connState = s.connState := rfl
@[simp] theorem complete_op (c : ResCode) (v : BitVec 8) (k : DiagKind) (d : BitVec 5) : (complete c v k d s).op = .idle := rfl
@[simp] theorem complete_phase (c : ResCode) (v : BitVec 8) (k : DiagKind) (d : BitVec 5) : (complete c v k d s).phase = .none := rfl
@[simp] theorem complete_sduLen (c : ResCode) (v : BitVec 8) (k : DiagKind) (d : BitVec 5) : (complete c v k d s).sduLen = s.sduLen := rfl
@[simp] theorem complete_fragTotal (c : ResCode) (v : BitVec 8) (k : DiagKind) (d : BitVec 5) : (complete c v k d s).fragTotal = s.fragTotal := rfl
@[simp] theorem complete_fragNext (c : ResCode) (v : BitVec 8) (k : DiagKind) (d : BitVec 5) : (complete c v k d s).fragNext = s.fragNext := rfl
@[simp] theorem complete_resCode (c : ResCode) (v : BitVec 8) (k : DiagKind) (d : BitVec 5) : (complete c v k d s).resCode = c := rfl
@[simp] theorem complete_resValue (c : ResCode) (v : BitVec 8) (k : DiagKind) (d : BitVec 5) : (complete c v k d s).resValue = v := rfl
@[simp] theorem complete_resDiagKind (c : ResCode) (v : BitVec 8) (k : DiagKind) (d : BitVec 5) : (complete c v k d s).resDiagKind = k := rfl
@[simp] theorem complete_resDiag (c : ResCode) (v : BitVec 8) (k : DiagKind) (d : BitVec 5) : (complete c v k d s).resDiag = d := rfl
@[simp] theorem complete_resultValid (c : ResCode) (v : BitVec 8) (k : DiagKind) (d : BitVec 5) : (complete c v k d s).resultValid = true := rfl
@[simp] theorem complete_busy (c : ResCode) (v : BitVec 8) (k : DiagKind) (d : BitVec 5) : (complete c v k d s).busy = false := rfl
@[simp] theorem complete_closed (c : ResCode) (v : BitVec 8) (k : DiagKind) (d : BitVec 5) : (complete c v k d s).closed = s.closed := rfl
@[simp] theorem complete_cmdErr (c : ResCode) (v : BitVec 8) (k : DiagKind) (d : BitVec 5) : (complete c v k d s).cmdErr = s.cmdErr := rfl
@[simp] theorem complete_cmdErrReason (c : ResCode) (v : BitVec 8) (k : DiagKind) (d : BitVec 5) : (complete c v k d s).cmdErrReason = s.cmdErrReason := rfl
@[simp] theorem complete_sdu (c : ResCode) (v : BitVec 8) (k : DiagKind) (d : BitVec 5) : (complete c v k d s).sdu = s.sdu := rfl
@[simp] theorem complete_tx (c : ResCode) (v : BitVec 8) (k : DiagKind) (d : BitVec 5) : (complete c v k d s).tx = s.tx := rfl
@[simp] theorem complete_port (c : ResCode) (v : BitVec 8) (k : DiagKind) (d : BitVec 5) : (complete c v k d s).port = s.port := rfl
@[simp] theorem complete_rx (c : ResCode) (v : BitVec 8) (k : DiagKind) (d : BitVec 5) : (complete c v k d s).rx = s.rx := rfl
@[simp] theorem complete_rxDrawn (c : ResCode) (v : BitVec 8) (k : DiagKind) (d : BitVec 5) : (complete c v k d s).rxDrawn = s.rxDrawn := rfl
@[simp] theorem complete_env (c : ResCode) (v : BitVec 8) (k : DiagKind) (d : BitVec 5) : (complete c v k d s).env = s.env := rfl
@[simp] theorem complete_reads (c : ResCode) (v : BitVec 8) (k : DiagKind) (d : BitVec 5) : (complete c v k d s).reads = s.reads := rfl

/-! ### refuse -/
@[simp] theorem refuse_params (r : Reason) : (refuse r s).params = s.params := rfl
@[simp] theorem refuse_stationAddr (r : Reason) : (refuse r s).stationAddr = s.stationAddr := rfl
@[simp] theorem refuse_w (r : Reason) : (refuse r s).w = s.w := rfl
@[simp] theorem refuse_cfgErr (r : Reason) : (refuse r s).cfgErr = s.cfgErr := rfl
@[simp] theorem refuse_vs (r : Reason) : (refuse r s).vs = s.vs := rfl
@[simp] theorem refuse_vr (r : Reason) : (refuse r s).vr = s.vr := rfl
@[simp] theorem refuse_rhs (r : Reason) : (refuse r s).rhs = s.rhs := rfl
@[simp] theorem refuse_fb (r : Reason) : (refuse r s).fb = s.fb := rfl
@[simp] theorem refuse_connState (r : Reason) : (refuse r s).connState = s.connState := rfl
@[simp] theorem refuse_op (r : Reason) : (refuse r s).op = s.op := rfl
@[simp] theorem refuse_phase (r : Reason) : (refuse r s).phase = s.phase := rfl
@[simp] theorem refuse_sduLen (r : Reason) : (refuse r s).sduLen = s.sduLen := rfl
@[simp] theorem refuse_fragTotal (r : Reason) : (refuse r s).fragTotal = s.fragTotal := rfl
@[simp] theorem refuse_fragNext (r : Reason) : (refuse r s).fragNext = s.fragNext := rfl
@[simp] theorem refuse_resCode (r : Reason) : (refuse r s).resCode = s.resCode := rfl
@[simp] theorem refuse_resValue (r : Reason) : (refuse r s).resValue = s.resValue := rfl
@[simp] theorem refuse_resDiagKind (r : Reason) : (refuse r s).resDiagKind = s.resDiagKind := rfl
@[simp] theorem refuse_resDiag (r : Reason) : (refuse r s).resDiag = s.resDiag := rfl
@[simp] theorem refuse_resultValid (r : Reason) : (refuse r s).resultValid = s.resultValid := rfl
@[simp] theorem refuse_busy (r : Reason) : (refuse r s).busy = s.busy := rfl
@[simp] theorem refuse_closed (r : Reason) : (refuse r s).closed = s.closed := rfl
@[simp] theorem refuse_cmdErr (r : Reason) : (refuse r s).cmdErr = true := rfl
@[simp] theorem refuse_cmdErrReason (r : Reason) : (refuse r s).cmdErrReason = r := rfl
@[simp] theorem refuse_sdu (r : Reason) : (refuse r s).sdu = s.sdu := rfl
@[simp] theorem refuse_tx (r : Reason) : (refuse r s).tx = s.tx := rfl
@[simp] theorem refuse_port (r : Reason) : (refuse r s).port = s.port := rfl
@[simp] theorem refuse_rx (r : Reason) : (refuse r s).rx = s.rx := rfl
@[simp] theorem refuse_rxDrawn (r : Reason) : (refuse r s).rxDrawn = s.rxDrawn := rfl
@[simp] theorem refuse_env (r : Reason) : (refuse r s).env = s.env := rfl
@[simp] theorem refuse_reads (r : Reason) : (refuse r s).reads = s.reads := rfl

/-! ### startCommand -/
@[simp] theorem startCommand_params (o : Op) (p : Phase) : (startCommand o p s).params = s.params := rfl
@[simp] theorem startCommand_stationAddr (o : Op) (p : Phase) : (startCommand o p s).stationAddr = s.stationAddr := rfl
@[simp] theorem startCommand_w (o : Op) (p : Phase) : (startCommand o p s).w = s.w := rfl
@[simp] theorem startCommand_cfgErr (o : Op) (p : Phase) : (startCommand o p s).cfgErr = s.cfgErr := rfl
@[simp] theorem startCommand_vs (o : Op) (p : Phase) : (startCommand o p s).vs = s.vs := rfl
@[simp] theorem startCommand_vr (o : Op) (p : Phase) : (startCommand o p s).vr = s.vr := rfl
@[simp] theorem startCommand_rhs (o : Op) (p : Phase) : (startCommand o p s).rhs = s.rhs := rfl
@[simp] theorem startCommand_fb (o : Op) (p : Phase) : (startCommand o p s).fb = s.fb := rfl
@[simp] theorem startCommand_connState (o : Op) (p : Phase) : (startCommand o p s).connState = s.connState := rfl
@[simp] theorem startCommand_op (o : Op) (p : Phase) : (startCommand o p s).op = o := rfl
@[simp] theorem startCommand_phase (o : Op) (p : Phase) : (startCommand o p s).phase = p := rfl
@[simp] theorem startCommand_sduLen (o : Op) (p : Phase) : (startCommand o p s).sduLen = s.sduLen := rfl
@[simp] theorem startCommand_fragTotal (o : Op) (p : Phase) : (startCommand o p s).fragTotal = s.fragTotal := rfl
@[simp] theorem startCommand_fragNext (o : Op) (p : Phase) : (startCommand o p s).fragNext = s.fragNext := rfl
@[simp] theorem startCommand_resCode (o : Op) (p : Phase) : (startCommand o p s).resCode = s.resCode := rfl
@[simp] theorem startCommand_resValue (o : Op) (p : Phase) : (startCommand o p s).resValue = s.resValue := rfl
@[simp] theorem startCommand_resDiagKind (o : Op) (p : Phase) : (startCommand o p s).resDiagKind = s.resDiagKind := rfl
@[simp] theorem startCommand_resDiag (o : Op) (p : Phase) : (startCommand o p s).resDiag = s.resDiag := rfl
@[simp] theorem startCommand_resultValid (o : Op) (p : Phase) : (startCommand o p s).resultValid = false := rfl
@[simp] theorem startCommand_busy (o : Op) (p : Phase) : (startCommand o p s).busy = true := rfl
@[simp] theorem startCommand_closed (o : Op) (p : Phase) : (startCommand o p s).closed = s.closed := rfl
@[simp] theorem startCommand_cmdErr (o : Op) (p : Phase) : (startCommand o p s).cmdErr = s.cmdErr := rfl
@[simp] theorem startCommand_cmdErrReason (o : Op) (p : Phase) : (startCommand o p s).cmdErrReason = s.cmdErrReason := rfl
@[simp] theorem startCommand_sdu (o : Op) (p : Phase) : (startCommand o p s).sdu = s.sdu := rfl
@[simp] theorem startCommand_tx (o : Op) (p : Phase) : (startCommand o p s).tx = s.tx := rfl
@[simp] theorem startCommand_port (o : Op) (p : Phase) : (startCommand o p s).port = s.port := rfl
@[simp] theorem startCommand_rx (o : Op) (p : Phase) : (startCommand o p s).rx = s.rx := rfl
@[simp] theorem startCommand_rxDrawn (o : Op) (p : Phase) : (startCommand o p s).rxDrawn = s.rxDrawn := rfl
@[simp] theorem startCommand_env (o : Op) (p : Phase) : (startCommand o p s).env = s.env := rfl
@[simp] theorem startCommand_reads (o : Op) (p : Phase) : (startCommand o p s).reads = s.reads := rfl

/-! ### dataReqAccept -/
@[simp] theorem dataReqAccept_params (len : BitVec 16) : (dataReqAccept len s).params = s.params := rfl
@[simp] theorem dataReqAccept_stationAddr (len : BitVec 16) : (dataReqAccept len s).stationAddr = s.stationAddr := rfl
@[simp] theorem dataReqAccept_w (len : BitVec 16) : (dataReqAccept len s).w = s.w := rfl
@[simp] theorem dataReqAccept_cfgErr (len : BitVec 16) : (dataReqAccept len s).cfgErr = s.cfgErr := rfl
@[simp] theorem dataReqAccept_vs (len : BitVec 16) : (dataReqAccept len s).vs = s.vs := rfl
@[simp] theorem dataReqAccept_vr (len : BitVec 16) : (dataReqAccept len s).vr = s.vr := rfl
@[simp] theorem dataReqAccept_rhs (len : BitVec 16) : (dataReqAccept len s).rhs = s.rhs := rfl
@[simp] theorem dataReqAccept_fb (len : BitVec 16) : (dataReqAccept len s).fb = s.fb := rfl
@[simp] theorem dataReqAccept_connState (len : BitVec 16) : (dataReqAccept len s).connState = s.connState := rfl
@[simp] theorem dataReqAccept_op (len : BitVec 16) : (dataReqAccept len s).op = .dataReq := rfl
@[simp] theorem dataReqAccept_phase (len : BitVec 16) : (dataReqAccept len s).phase = .pollSync := rfl
@[simp] theorem dataReqAccept_sduLen (len : BitVec 16) : (dataReqAccept len s).sduLen = len := rfl
@[simp] theorem dataReqAccept_fragTotal (len : BitVec 16) : (dataReqAccept len s).fragTotal = fragmentCount len := rfl
@[simp] theorem dataReqAccept_fragNext (len : BitVec 16) : (dataReqAccept len s).fragNext = 0 := rfl
@[simp] theorem dataReqAccept_resCode (len : BitVec 16) : (dataReqAccept len s).resCode = s.resCode := rfl
@[simp] theorem dataReqAccept_resValue (len : BitVec 16) : (dataReqAccept len s).resValue = s.resValue := rfl
@[simp] theorem dataReqAccept_resDiagKind (len : BitVec 16) : (dataReqAccept len s).resDiagKind = s.resDiagKind := rfl
@[simp] theorem dataReqAccept_resDiag (len : BitVec 16) : (dataReqAccept len s).resDiag = s.resDiag := rfl
@[simp] theorem dataReqAccept_resultValid (len : BitVec 16) : (dataReqAccept len s).resultValid = false := rfl
@[simp] theorem dataReqAccept_busy (len : BitVec 16) : (dataReqAccept len s).busy = true := rfl
@[simp] theorem dataReqAccept_closed (len : BitVec 16) : (dataReqAccept len s).closed = s.closed := rfl
@[simp] theorem dataReqAccept_cmdErr (len : BitVec 16) : (dataReqAccept len s).cmdErr = s.cmdErr := rfl
@[simp] theorem dataReqAccept_cmdErrReason (len : BitVec 16) : (dataReqAccept len s).cmdErrReason = s.cmdErrReason := rfl
@[simp] theorem dataReqAccept_sdu (len : BitVec 16) : (dataReqAccept len s).sdu = s.sdu := rfl
@[simp] theorem dataReqAccept_tx (len : BitVec 16) : (dataReqAccept len s).tx = s.tx := rfl
@[simp] theorem dataReqAccept_port (len : BitVec 16) : (dataReqAccept len s).port = s.port := rfl
@[simp] theorem dataReqAccept_rx (len : BitVec 16) : (dataReqAccept len s).rx = s.rx := rfl
@[simp] theorem dataReqAccept_rxDrawn (len : BitVec 16) : (dataReqAccept len s).rxDrawn = s.rxDrawn := rfl
@[simp] theorem dataReqAccept_env (len : BitVec 16) : (dataReqAccept len s).env = s.env := rfl
@[simp] theorem dataReqAccept_reads (len : BitVec 16) : (dataReqAccept len s).reads = s.reads := rfl

/-! ### hostOffer -/
@[simp] theorem hostOffer_params (word : BitVec 32) : (hostOffer word s).params = s.params := rfl
@[simp] theorem hostOffer_stationAddr (word : BitVec 32) : (hostOffer word s).stationAddr = s.stationAddr := rfl
@[simp] theorem hostOffer_w (word : BitVec 32) : (hostOffer word s).w = s.w := rfl
@[simp] theorem hostOffer_cfgErr (word : BitVec 32) : (hostOffer word s).cfgErr = s.cfgErr := rfl
@[simp] theorem hostOffer_vs (word : BitVec 32) : (hostOffer word s).vs = s.vs := rfl
@[simp] theorem hostOffer_vr (word : BitVec 32) : (hostOffer word s).vr = s.vr := rfl
@[simp] theorem hostOffer_rhs (word : BitVec 32) : (hostOffer word s).rhs = s.rhs := rfl
@[simp] theorem hostOffer_fb (word : BitVec 32) : (hostOffer word s).fb = s.fb := rfl
@[simp] theorem hostOffer_connState (word : BitVec 32) : (hostOffer word s).connState = s.connState := rfl
@[simp] theorem hostOffer_op (word : BitVec 32) : (hostOffer word s).op = s.op := rfl
@[simp] theorem hostOffer_phase (word : BitVec 32) : (hostOffer word s).phase = s.phase := rfl
@[simp] theorem hostOffer_sduLen (word : BitVec 32) : (hostOffer word s).sduLen = s.sduLen := rfl
@[simp] theorem hostOffer_fragTotal (word : BitVec 32) : (hostOffer word s).fragTotal = s.fragTotal := rfl
@[simp] theorem hostOffer_fragNext (word : BitVec 32) : (hostOffer word s).fragNext = s.fragNext := rfl
@[simp] theorem hostOffer_resCode (word : BitVec 32) : (hostOffer word s).resCode = s.resCode := rfl
@[simp] theorem hostOffer_resValue (word : BitVec 32) : (hostOffer word s).resValue = s.resValue := rfl
@[simp] theorem hostOffer_resDiagKind (word : BitVec 32) : (hostOffer word s).resDiagKind = s.resDiagKind := rfl
@[simp] theorem hostOffer_resDiag (word : BitVec 32) : (hostOffer word s).resDiag = s.resDiag := rfl
@[simp] theorem hostOffer_resultValid (word : BitVec 32) : (hostOffer word s).resultValid = s.resultValid := rfl
@[simp] theorem hostOffer_busy (word : BitVec 32) : (hostOffer word s).busy = s.busy := rfl
@[simp] theorem hostOffer_closed (word : BitVec 32) : (hostOffer word s).closed = s.closed := rfl
@[simp] theorem hostOffer_cmdErr (word : BitVec 32) : (hostOffer word s).cmdErr = s.cmdErr := rfl
@[simp] theorem hostOffer_cmdErrReason (word : BitVec 32) : (hostOffer word s).cmdErrReason = s.cmdErrReason := rfl
@[simp] theorem hostOffer_sdu (word : BitVec 32) : (hostOffer word s).sdu = s.sdu := rfl
@[simp] theorem hostOffer_tx (word : BitVec 32) : (hostOffer word s).tx = s.tx := rfl
@[simp] theorem hostOffer_port (word : BitVec 32) : (hostOffer word s).port = s.port ++ [word] := rfl
@[simp] theorem hostOffer_rx (word : BitVec 32) : (hostOffer word s).rx = s.rx := rfl
@[simp] theorem hostOffer_rxDrawn (word : BitVec 32) : (hostOffer word s).rxDrawn = s.rxDrawn := rfl
@[simp] theorem hostOffer_env (word : BitVec 32) : (hostOffer word s).env = s.env := rfl
@[simp] theorem hostOffer_reads (word : BitVec 32) : (hostOffer word s).reads = s.reads := rfl

/-! ### hostRead -/
@[simp] theorem hostRead_params (name : ReadName) : (hostRead name s).params = s.params := rfl
@[simp] theorem hostRead_stationAddr (name : ReadName) : (hostRead name s).stationAddr = s.stationAddr := rfl
@[simp] theorem hostRead_w (name : ReadName) : (hostRead name s).w = s.w := rfl
@[simp] theorem hostRead_cfgErr (name : ReadName) : (hostRead name s).cfgErr = s.cfgErr := rfl
@[simp] theorem hostRead_vs (name : ReadName) : (hostRead name s).vs = s.vs := rfl
@[simp] theorem hostRead_vr (name : ReadName) : (hostRead name s).vr = s.vr := rfl
@[simp] theorem hostRead_rhs (name : ReadName) : (hostRead name s).rhs = s.rhs := rfl
@[simp] theorem hostRead_fb (name : ReadName) : (hostRead name s).fb = s.fb := rfl
@[simp] theorem hostRead_connState (name : ReadName) : (hostRead name s).connState = s.connState := rfl
@[simp] theorem hostRead_op (name : ReadName) : (hostRead name s).op = s.op := rfl
@[simp] theorem hostRead_phase (name : ReadName) : (hostRead name s).phase = s.phase := rfl
@[simp] theorem hostRead_sduLen (name : ReadName) : (hostRead name s).sduLen = s.sduLen := rfl
@[simp] theorem hostRead_fragTotal (name : ReadName) : (hostRead name s).fragTotal = s.fragTotal := rfl
@[simp] theorem hostRead_fragNext (name : ReadName) : (hostRead name s).fragNext = s.fragNext := rfl
@[simp] theorem hostRead_resCode (name : ReadName) : (hostRead name s).resCode = s.resCode := rfl
@[simp] theorem hostRead_resValue (name : ReadName) : (hostRead name s).resValue = s.resValue := rfl
@[simp] theorem hostRead_resDiagKind (name : ReadName) : (hostRead name s).resDiagKind = s.resDiagKind := rfl
@[simp] theorem hostRead_resDiag (name : ReadName) : (hostRead name s).resDiag = s.resDiag := rfl
@[simp] theorem hostRead_resultValid (name : ReadName) : (hostRead name s).resultValid = s.resultValid := rfl
@[simp] theorem hostRead_busy (name : ReadName) : (hostRead name s).busy = s.busy := rfl
@[simp] theorem hostRead_closed (name : ReadName) : (hostRead name s).closed = s.closed := rfl
@[simp] theorem hostRead_cmdErr (name : ReadName) : (hostRead name s).cmdErr = s.cmdErr := rfl
@[simp] theorem hostRead_cmdErrReason (name : ReadName) : (hostRead name s).cmdErrReason = s.cmdErrReason := rfl
@[simp] theorem hostRead_sdu (name : ReadName) : (hostRead name s).sdu = s.sdu := rfl
@[simp] theorem hostRead_tx (name : ReadName) : (hostRead name s).tx = s.tx := rfl
@[simp] theorem hostRead_port (name : ReadName) : (hostRead name s).port = s.port := rfl
@[simp] theorem hostRead_rx (name : ReadName) : (hostRead name s).rx = s.rx := rfl
@[simp] theorem hostRead_rxDrawn (name : ReadName) : (hostRead name s).rxDrawn = s.rxDrawn := rfl
@[simp] theorem hostRead_env (name : ReadName) : (hostRead name s).env = s.env := rfl
@[simp] theorem hostRead_reads (name : ReadName) : (hostRead name s).reads = s.reads ++ [readWord s name] := rfl

/-! ### applyReset -/
@[simp] theorem applyReset_params (a : BitVec 8) (n : BitVec 4) : (applyReset a n s).params = s.params := rfl
@[simp] theorem applyReset_stationAddr (a : BitVec 8) (n : BitVec 4) : (applyReset a n s).stationAddr = a := rfl
@[simp] theorem applyReset_w (a : BitVec 8) (n : BitVec 4) : (applyReset a n s).w = n := rfl
@[simp] theorem applyReset_cfgErr (a : BitVec 8) (n : BitVec 4) : (applyReset a n s).cfgErr = windowSizeIllegal n := rfl
@[simp] theorem applyReset_vs (a : BitVec 8) (n : BitVec 4) : (applyReset a n s).vs = 0 := rfl
@[simp] theorem applyReset_vr (a : BitVec 8) (n : BitVec 4) : (applyReset a n s).vr = 0 := rfl
@[simp] theorem applyReset_rhs (a : BitVec 8) (n : BitVec 4) : (applyReset a n s).rhs = n.setWidth 3 := rfl
@[simp] theorem applyReset_fb (a : BitVec 8) (n : BitVec 4) : (applyReset a n s).fb = [] := rfl
@[simp] theorem applyReset_connState (a : BitVec 8) (n : BitVec 4) : (applyReset a n s).connState = .disconnected := rfl
@[simp] theorem applyReset_op (a : BitVec 8) (n : BitVec 4) : (applyReset a n s).op = .idle := rfl
@[simp] theorem applyReset_phase (a : BitVec 8) (n : BitVec 4) : (applyReset a n s).phase = .none := rfl
@[simp] theorem applyReset_sduLen (a : BitVec 8) (n : BitVec 4) : (applyReset a n s).sduLen = 0 := rfl
@[simp] theorem applyReset_fragTotal (a : BitVec 8) (n : BitVec 4) : (applyReset a n s).fragTotal = 0 := rfl
@[simp] theorem applyReset_fragNext (a : BitVec 8) (n : BitVec 4) : (applyReset a n s).fragNext = 0 := rfl
@[simp] theorem applyReset_resCode (a : BitVec 8) (n : BitVec 4) : (applyReset a n s).resCode = .srvSuccessful := rfl
@[simp] theorem applyReset_resValue (a : BitVec 8) (n : BitVec 4) : (applyReset a n s).resValue = 0 := rfl
@[simp] theorem applyReset_resDiagKind (a : BitVec 8) (n : BitVec 4) : (applyReset a n s).resDiagKind = .none := rfl
@[simp] theorem applyReset_resDiag (a : BitVec 8) (n : BitVec 4) : (applyReset a n s).resDiag = 0 := rfl
@[simp] theorem applyReset_resultValid (a : BitVec 8) (n : BitVec 4) : (applyReset a n s).resultValid = false := rfl
@[simp] theorem applyReset_busy (a : BitVec 8) (n : BitVec 4) : (applyReset a n s).busy = false := rfl
@[simp] theorem applyReset_closed (a : BitVec 8) (n : BitVec 4) : (applyReset a n s).closed = false := rfl
@[simp] theorem applyReset_cmdErr (a : BitVec 8) (n : BitVec 4) : (applyReset a n s).cmdErr = false := rfl
@[simp] theorem applyReset_cmdErrReason (a : BitVec 8) (n : BitVec 4) : (applyReset a n s).cmdErrReason = .none := rfl
@[simp] theorem applyReset_sdu (a : BitVec 8) (n : BitVec 4) : (applyReset a n s).sdu = [] := rfl
@[simp] theorem applyReset_tx (a : BitVec 8) (n : BitVec 4) : (applyReset a n s).tx = s.tx ++ [.reset] := rfl
@[simp] theorem applyReset_port (a : BitVec 8) (n : BitVec 4) : (applyReset a n s).port = s.port := rfl
@[simp] theorem applyReset_rx (a : BitVec 8) (n : BitVec 4) : (applyReset a n s).rx = s.rx := rfl
@[simp] theorem applyReset_rxDrawn (a : BitVec 8) (n : BitVec 4) : (applyReset a n s).rxDrawn = s.rxDrawn := rfl
@[simp] theorem applyReset_env (a : BitVec 8) (n : BitVec 4) : (applyReset a n s).env = s.env := rfl
@[simp] theorem applyReset_reads (a : BitVec 8) (n : BitVec 4) : (applyReset a n s).reads = s.reads := rfl

/-! ### connRespStep -/
@[simp] theorem connRespStep_params : (connRespStep s).params = s.params := rfl
@[simp] theorem connRespStep_stationAddr : (connRespStep s).stationAddr = s.stationAddr := rfl
@[simp] theorem connRespStep_w : (connRespStep s).w = s.w := rfl
@[simp] theorem connRespStep_cfgErr : (connRespStep s).cfgErr = s.cfgErr := rfl
@[simp] theorem connRespStep_vs : (connRespStep s).vs = 0 := rfl
@[simp] theorem connRespStep_vr : (connRespStep s).vr = 0 := rfl
@[simp] theorem connRespStep_rhs : (connRespStep s).rhs = windowSeq s := rfl
@[simp] theorem connRespStep_fb : (connRespStep s).fb = [] := rfl
@[simp] theorem connRespStep_connState : (connRespStep s).connState = .connected := rfl
@[simp] theorem connRespStep_op : (connRespStep s).op = .idle := rfl
@[simp] theorem connRespStep_phase : (connRespStep s).phase = .none := rfl
@[simp] theorem connRespStep_sduLen : (connRespStep s).sduLen = s.sduLen := rfl
@[simp] theorem connRespStep_fragTotal : (connRespStep s).fragTotal = s.fragTotal := rfl
@[simp] theorem connRespStep_fragNext : (connRespStep s).fragNext = s.fragNext := rfl
@[simp] theorem connRespStep_resCode : (connRespStep s).resCode = .srvSuccessful := rfl
@[simp] theorem connRespStep_resValue : (connRespStep s).resValue = s.stationAddr := rfl
@[simp] theorem connRespStep_resDiagKind : (connRespStep s).resDiagKind = .none := rfl
@[simp] theorem connRespStep_resDiag : (connRespStep s).resDiag = 0 := rfl
@[simp] theorem connRespStep_resultValid : (connRespStep s).resultValid = true := rfl
@[simp] theorem connRespStep_busy : (connRespStep s).busy = false := rfl
@[simp] theorem connRespStep_closed : (connRespStep s).closed = s.closed := rfl
@[simp] theorem connRespStep_cmdErr : (connRespStep s).cmdErr = s.cmdErr := rfl
@[simp] theorem connRespStep_cmdErrReason : (connRespStep s).cmdErrReason = s.cmdErrReason := rfl
@[simp] theorem connRespStep_sdu : (connRespStep s).sdu = s.sdu := rfl
@[simp] theorem connRespStep_tx : (connRespStep s).tx = s.tx ++ [.frame (buildU s.stationAddr modUA s.params.uaPf)] := rfl
@[simp] theorem connRespStep_port : (connRespStep s).port = s.port := rfl
@[simp] theorem connRespStep_rx : (connRespStep s).rx = s.rx := rfl
@[simp] theorem connRespStep_rxDrawn : (connRespStep s).rxDrawn = s.rxDrawn := rfl
@[simp] theorem connRespStep_env : (connRespStep s).env = s.env := rfl
@[simp] theorem connRespStep_reads : (connRespStep s).reads = s.reads := rfl

/-! ### closeStep -/
@[simp] theorem closeStep_params : (closeStep s).params = s.params := rfl
@[simp] theorem closeStep_stationAddr : (closeStep s).stationAddr = s.stationAddr := rfl
@[simp] theorem closeStep_w : (closeStep s).w = s.w := rfl
@[simp] theorem closeStep_cfgErr : (closeStep s).cfgErr = s.cfgErr := rfl
@[simp] theorem closeStep_vs : (closeStep s).vs = s.vs := rfl
@[simp] theorem closeStep_vr : (closeStep s).vr = s.vr := rfl
@[simp] theorem closeStep_rhs : (closeStep s).rhs = s.rhs := rfl
@[simp] theorem closeStep_fb : (closeStep s).fb = s.fb := rfl
@[simp] theorem closeStep_connState : (closeStep s).connState = .disconnected := rfl
@[simp] theorem closeStep_op : (closeStep s).op = .idle := rfl
@[simp] theorem closeStep_phase : (closeStep s).phase = .none := rfl
@[simp] theorem closeStep_sduLen : (closeStep s).sduLen = s.sduLen := rfl
@[simp] theorem closeStep_fragTotal : (closeStep s).fragTotal = s.fragTotal := rfl
@[simp] theorem closeStep_fragNext : (closeStep s).fragNext = s.fragNext := rfl
@[simp] theorem closeStep_resCode : (closeStep s).resCode = .srvSuccessful := rfl
@[simp] theorem closeStep_resValue : (closeStep s).resValue = 0 := rfl
@[simp] theorem closeStep_resDiagKind : (closeStep s).resDiagKind = .none := rfl
@[simp] theorem closeStep_resDiag : (closeStep s).resDiag = 0 := rfl
@[simp] theorem closeStep_resultValid : (closeStep s).resultValid = true := rfl
@[simp] theorem closeStep_busy : (closeStep s).busy = false := rfl
@[simp] theorem closeStep_closed : (closeStep s).closed = true := rfl
@[simp] theorem closeStep_cmdErr : (closeStep s).cmdErr = s.cmdErr := rfl
@[simp] theorem closeStep_cmdErrReason : (closeStep s).cmdErrReason = s.cmdErrReason := rfl
@[simp] theorem closeStep_sdu : (closeStep s).sdu = s.sdu := rfl
@[simp] theorem closeStep_tx : (closeStep s).tx = s.tx ++ [.closed] := rfl
@[simp] theorem closeStep_port : (closeStep s).port = s.port := rfl
@[simp] theorem closeStep_rx : (closeStep s).rx = s.rx := rfl
@[simp] theorem closeStep_rxDrawn : (closeStep s).rxDrawn = s.rxDrawn := rfl
@[simp] theorem closeStep_env : (closeStep s).env = s.env := rfl
@[simp] theorem closeStep_reads : (closeStep s).reads = s.reads := rfl

/-! ### rxAttempt: one answer is consumed and counted, nothing else changes -/
@[simp] theorem rxAttempt_params : (rxAttempt s).2.params = s.params := by
  unfold rxAttempt; split <;> rfl
@[simp] theorem rxAttempt_stationAddr : (rxAttempt s).2.stationAddr = s.stationAddr := by
  unfold rxAttempt; split <;> rfl
@[simp] theorem rxAttempt_w : (rxAttempt s).2.w = s.w := by
  unfold rxAttempt; split <;> rfl
@[simp] theorem rxAttempt_cfgErr : (rxAttempt s).2.cfgErr = s.cfgErr := by
  unfold rxAttempt; split <;> rfl
@[simp] theorem rxAttempt_vs : (rxAttempt s).2.vs = s.vs := by
  unfold rxAttempt; split <;> rfl
@[simp] theorem rxAttempt_vr : (rxAttempt s).2.vr = s.vr := by
  unfold rxAttempt; split <;> rfl
@[simp] theorem rxAttempt_rhs : (rxAttempt s).2.rhs = s.rhs := by
  unfold rxAttempt; split <;> rfl
@[simp] theorem rxAttempt_fb : (rxAttempt s).2.fb = s.fb := by
  unfold rxAttempt; split <;> rfl
@[simp] theorem rxAttempt_connState : (rxAttempt s).2.connState = s.connState := by
  unfold rxAttempt; split <;> rfl
@[simp] theorem rxAttempt_op : (rxAttempt s).2.op = s.op := by
  unfold rxAttempt; split <;> rfl
@[simp] theorem rxAttempt_phase : (rxAttempt s).2.phase = s.phase := by
  unfold rxAttempt; split <;> rfl
@[simp] theorem rxAttempt_sduLen : (rxAttempt s).2.sduLen = s.sduLen := by
  unfold rxAttempt; split <;> rfl
@[simp] theorem rxAttempt_fragTotal : (rxAttempt s).2.fragTotal = s.fragTotal := by
  unfold rxAttempt; split <;> rfl
@[simp] theorem rxAttempt_fragNext : (rxAttempt s).2.fragNext = s.fragNext := by
  unfold rxAttempt; split <;> rfl
@[simp] theorem rxAttempt_resCode : (rxAttempt s).2.resCode = s.resCode := by
  unfold rxAttempt; split <;> rfl
@[simp] theorem rxAttempt_resValue : (rxAttempt s).2.resValue = s.resValue := by
  unfold rxAttempt; split <;> rfl
@[simp] theorem rxAttempt_resDiagKind : (rxAttempt s).2.resDiagKind = s.resDiagKind := by
  unfold rxAttempt; split <;> rfl
@[simp] theorem rxAttempt_resDiag : (rxAttempt s).2.resDiag = s.resDiag := by
  unfold rxAttempt; split <;> rfl
@[simp] theorem rxAttempt_resultValid : (rxAttempt s).2.resultValid = s.resultValid := by
  unfold rxAttempt; split <;> rfl
@[simp] theorem rxAttempt_busy : (rxAttempt s).2.busy = s.busy := by
  unfold rxAttempt; split <;> rfl
@[simp] theorem rxAttempt_closed : (rxAttempt s).2.closed = s.closed := by
  unfold rxAttempt; split <;> rfl
@[simp] theorem rxAttempt_cmdErr : (rxAttempt s).2.cmdErr = s.cmdErr := by
  unfold rxAttempt; split <;> rfl
@[simp] theorem rxAttempt_cmdErrReason : (rxAttempt s).2.cmdErrReason = s.cmdErrReason := by
  unfold rxAttempt; split <;> rfl
@[simp] theorem rxAttempt_sdu : (rxAttempt s).2.sdu = s.sdu := by
  unfold rxAttempt; split <;> rfl
@[simp] theorem rxAttempt_tx : (rxAttempt s).2.tx = s.tx := by
  unfold rxAttempt; split <;> rfl
@[simp] theorem rxAttempt_port : (rxAttempt s).2.port = s.port := by
  unfold rxAttempt; split <;> rfl
@[simp] theorem rxAttempt_rx : (rxAttempt s).2.rx = s.rx.tail := by
  unfold rxAttempt; split <;> simp [*]
@[simp] theorem rxAttempt_rxDrawn : (rxAttempt s).2.rxDrawn = s.rxDrawn + 1 := by
  unfold rxAttempt; split <;> rfl
@[simp] theorem rxAttempt_env : (rxAttempt s).2.env = s.env := by
  unfold rxAttempt; split <;> rfl
@[simp] theorem rxAttempt_reads : (rxAttempt s).2.reads = s.reads := by
  unfold rxAttempt; split <;> rfl

end Sys2Proof.Machine
end

