-- ==== Sys2Proof/Laws/Spec.lean ====
section
/-! SUPPORT. One lemma per shared operation that says once everything it can do (43_transfer_engine.md R121 to R135,
41_connection.md R100 to R104, 30_encoding.md R72), and what a turn of the engine is. Later proofs cite these instead of
unfolding the operations. -/

namespace Sys2Proof.Machine

/-! ### The transfer engine's sub-steps -/

/-- `FB.push` on a buffer with room, and what an answer says. -/
theorem fbPush_ok {f : Bits} {s t : State} :
    fbPush f s = .ok t ↔ s.fb.length < s.w.toNat ∧ t = { s with fb := s.fb ++ [f] } := by
  unfold fbPush; split
  · rename_i h; simp [h, eq_comm]
  · rename_i h; simp [h]

/-- SendNew: the fragment's bytes are all written, FB has room, and the built frame is sent and pushed (R124). -/
theorem sendNew_ok {s t : State} :
    sendNew s = .ok t ↔ ∃ bytes, fragmentBytes s s.fragNext.toNat = some bytes ∧ s.fb.length < s.w.toNat ∧
      t = { s with
        tx := s.tx ++ [.frame (buildI s.stationAddr (infoBits bytes) s.vs (finalBit s) s.vr)]
        fb := s.fb ++ [buildI s.stationAddr (infoBits bytes) s.vs (finalBit s) s.vr]
        fragNext := s.fragNext + 1 } := by
  unfold sendNew
  cases hb : fragmentBytes s s.fragNext.toNat with
  | none => simp
  | some bytes =>
    simp only [fbPush, transmit_fb, transmit_w, Option.some.injEq, exists_eq_left']
    by_cases hr : s.fb.length < s.w.toNat
    · simp only [hr, if_true, true_and, Except.ok.injEq]
      exact eq_comm
    · simp [hr]

/-- Retransmit: entry `off` of FB is sent again; nothing but the TX history changes (R125). -/
theorem retransmit_ok {off : Nat} {s t : State} :
    retransmit off s = .ok t ↔ ∃ f, s.fb[off]? = some f ∧ t = transmit f s := by
  unfold retransmit fbAt
  cases h : s.fb[off]? with
  | none => simp
  | some f => simp [eq_comm]

/-- What a transmit sub-step can do (R123): nothing, one retransmission, or one first transmission. -/
theorem txSubStep_cases {s t : State} (h : txSubStep s = .ok t) :
    (t = s ∧ (windowOpen s && (resendDue s || unsentRemain s)) = false) ∨
    (windowOpen s = true ∧ resendDue s = true ∧ ∃ f, s.fb[windowOffset s]? = some f ∧
      t = { transmit f s with vs := s.vs + 1 }) ∨
    (windowOpen s = true ∧ resendDue s = false ∧ unsentRemain s = true ∧
      ∃ bytes, fragmentBytes s s.fragNext.toNat = some bytes ∧ s.fb.length < s.w.toNat ∧
        t = { s with
          tx := s.tx ++ [.frame (buildI s.stationAddr (infoBits bytes) s.vs (finalBit s) s.vr)]
          fb := s.fb ++ [buildI s.stationAddr (infoBits bytes) s.vs (finalBit s) s.vr]
          fragNext := s.fragNext + 1
          vs := s.vs + 1 }) := by
  unfold txSubStep at h
  cases hc : (windowOpen s && (resendDue s || unsentRemain s)) with
  | false => rw [hc] at h; simp only [Bool.false_eq_true, if_false] at h; cases h; exact .inl ⟨rfl, rfl⟩
  | true =>
    rw [hc] at h
    simp only [if_true] at h
    simp only [Bool.and_eq_true, Bool.or_eq_true] at hc
    obtain ⟨ho, hru⟩ := hc
    cases hr : resendDue s with
    | true =>
      simp only [hr, if_true] at h
      split at h
      · rename_i u hu
        obtain ⟨f, hf, rfl⟩ := retransmit_ok.mp hu
        cases h
        exact .inr (.inl ⟨ho, rfl, f, hf, rfl⟩)
      · cases h
    | false =>
      simp only [hr, Bool.false_eq_true, if_false] at h
      split at h
      · rename_i u hu
        obtain ⟨bytes, hb, hroom, rfl⟩ := sendNew_ok.mp hu
        cases h
        exact .inr (.inr ⟨ho, rfl, by simpa [hr] using hru, bytes, hb, hroom, rfl⟩)
      · cases h

/-- The acknowledgment sub-step always completes; this is all it can do (R128 to R133). -/
theorem ackSubStep_cases (a : Option Ack) (s : State) :
    (ackSubStep a s = .ok s ∧ (a = none ∨ ∃ x, a = some x ∧ s.fb.length < ackCount s x.nr)) ∨
    (∃ x, a = some x ∧ ackCount s x.nr = 0 ∧ ackSubStep a s = .ok { s with vs := leftEdge s }) ∨
    (∃ x, a = some x ∧ 0 < ackCount s x.nr ∧ ackCount s x.nr ≤ s.fb.length ∧
      ackSubStep a s = .ok { s with
        fb := s.fb.drop (ackCount s x.nr)
        rhs := s.rhs + BitVec.ofNat 3 (ackCount s x.nr)
        vs := if windowOffset s < ackCount s x.nr then x.nr else s.vs }) := by
  cases a with
  | none => exact .inl ⟨rfl, .inl rfl⟩
  | some x =>
    by_cases h1 : s.fb.length < ackCount s x.nr
    · exact .inl ⟨by simp [ackSubStep, h1], .inr ⟨x, rfl, h1⟩⟩
    · by_cases h2 : ackCount s x.nr = 0
      · exact .inr (.inl ⟨x, rfl, h2, by simp [ackSubStep, h2]⟩)
      · refine .inr (.inr ⟨x, rfl, by omega, by omega, ?_⟩)
        have h3 : ackCount s x.nr ≤ s.fb.length := by omega
        simp only [ackSubStep, if_neg h1, if_neg h2, fbDropFront, if_pos h3]

/-- A loop step completes the command, or transmits and then acknowledges (R122). -/
theorem loopStep_cases {a : Option Ack} {s t : State} (h : loopStep a s = .ok t) :
    (transferDone s = true ∧ t = complete .srvSuccessful 0 .none 0 s) ∨
    (transferDone s = false ∧ ∃ u, txSubStep s = .ok u ∧ ackSubStep a u = .ok t) := by
  unfold loopStep at h
  cases hd : transferDone s with
  | true => rw [hd] at h; simp only [if_true] at h; cases h; exact .inl ⟨rfl, rfl⟩
  | false =>
    rw [hd] at h
    simp only [Bool.false_eq_true, if_false] at h
    split at h
    · rename_i u hu; exact .inr ⟨rfl, u, hu, h⟩
    · cases h

/-! ### Receiving -/

/-- The states in which the engine's next step makes an `RxAttempt`. -/
theorem rxDue_cases {s : State} (h : rxDue s = true) :
    s.busy = true ∧
      ((s.op = .connInd ∧ s.phase = .wait) ∨ (s.op = .discInd ∧ s.phase = .wait) ∨
        (s.op = .dataReq ∧ s.phase = .pollSync) ∨
        (s.op = .dataReq ∧ s.phase = .loop ∧ transferDone s = false)) := by
  unfold rxDue at h
  rw [Bool.and_eq_true] at h
  obtain ⟨hb, h⟩ := h
  refine ⟨hb, ?_⟩
  split at h <;> simp_all

@[simp] theorem transferDone_rxAttempt (s : State) : transferDone (rxAttempt s).2 = transferDone s := by
  simp [transferDone]

@[simp] theorem rxDue_rxAttempt (s : State) : rxDue (rxAttempt s).2 = rxDue s := by
  simp [rxDue]

/-- A received information field is not read (40_frame_model.md R91). -/
theorem onReceived_info (a : BitVec 8) (t : FrameType) (c : BitVec 8) (info : Bits) (s : State) :
    onReceived (.frame a t c info) s = onReceived (.frame a t c []) s := by
  have h1 : indicationOn modSNRM .awaitingResponse (.frame a t c info) s =
      indicationOn modSNRM .awaitingResponse (.frame a t c []) s := by cases t <;> rfl
  have h2 : indicationOn modDISC .disconnected (.frame a t c info) s =
      indicationOn modDISC .disconnected (.frame a t c []) s := by cases t <;> rfl
  have h3 : ackOf (.frame a t c info) = ackOf (.frame a t c []) := rfl
  unfold onReceived connIndOn discIndOn
  rw [h1, h2, h3]

/-- The eight bits of a long enough frame's control field. -/
theorem bitRange_ctrl (b : Bits) (h : 24 ≤ b.length) :
    bitRange b 16 23 = [bitAt b 16, bitAt b 17, bitAt b 18, bitAt b 19, bitAt b 20, bitAt b 21, bitAt b 22,
      bitAt b 23] := by
  apply List.ext_getElem
  · simp; omega
  · intro n h1 h2
    simp only [length_bitRange] at h1
    have hn : n < 8 := by omega
    have hg : (bitRange b 16 23)[n] = bitAt b (16 + n) := by
      simp only [bitRange, List.getElem_take, List.getElem_drop, bitAt]
      rw [List.getD_eq_getElem _ _ (by omega)]
    rw [hg]
    interval_cases n <;> rfl

/-- CTRLV[7] and CTRLV[6] are the type bits c[0] and c[1] (30_encoding.md R65). -/
theorem ctrlOf_bits (b : Bits) (h : 24 ≤ b.length) :
    (ctrlOf b).getLsbD 7 = bitAt b 16 ∧ (ctrlOf b).getLsbD 6 = bitAt b 17 := by
  rw [ctrlOf, bitRange_ctrl b h]
  generalize bitAt b 16 = p0
  generalize bitAt b 17 = p1
  generalize bitAt b 18 = p2
  generalize bitAt b 19 = p3
  generalize bitAt b 20 = p4
  generalize bitAt b 21 = p5
  generalize bitAt b 22 = p6
  generalize bitAt b 23 = p7
  revert p0 p1 p2 p3 p4 p5 p6 p7
  decide +kernel

/-- The type of a long enough frame is that of its control field. -/
theorem ctrlType_ctrlOf (b : Bits) (h : 24 ≤ b.length) : ctrlType (ctrlOf b) = parseFrameType b := by
  obtain ⟨h7, h6⟩ := ctrlOf_bits b h
  rw [ctrlType, parseFrameType, h7, h6]

/-- What an `RxAttempt` received is Retry, or is addressed to this station and typed by its own control field. -/
theorem receiveFrame_cases (addr : BitVec 8) (x : Option Bits) :
    receiveFrame addr x = .retry ∨ (∃ t, receiveFrame addr x = .malformed addr t) ∨
      ∃ c info, receiveFrame addr x = .frame addr (ctrlType c) c info := by
  cases x with
  | none => exact .inl rfl
  | some b =>
    unfold receiveFrame
    simp only
    cases h : classify addr b with
    | notMine => exact .inl rfl
    | malformed a t => obtain ⟨rfl, -⟩ := classify_malformed h; exact .inr (.inl ⟨t, rfl⟩)
    | frame a t c info =>
      obtain ⟨hn, rfl, -, rfl, rfl⟩ := classify_frame h
      exact .inr (.inr ⟨_, info, by rw [ctrlType_ctrlOf b (by omega)]⟩)

/-- The channel's answer, executed as an instruction where it is one, is the engine step on what was received. -/
theorem takeAnswer_eq (x : Option Bits) {s : State} (h : rxDue s = true) :
    takeAnswer x s = onReceived (receiveFrame s.stationAddr x) s := by
  unfold takeAnswer
  rcases receiveFrame_cases s.stationAddr x with hr | ⟨t, hr⟩ | ⟨c, info, hr⟩
  · rw [hr]
  · rw [hr]
  · rw [hr]
    simp only
    rw [exec_decodeControl, frameArrives, if_pos h, ← onReceived_info _ _ _ info]

/-! ### A turn of the engine -/

/-- A busy engine's turn at a step that receives. -/
theorem turn_receiving {s : State} (h : rxDue s = true) :
    turn s = onReceived (receiveFrame s.stationAddr (rxAttempt s).1) (rxAttempt s).2 := by
  have hb := (rxDue_cases h).1
  unfold turn
  rw [hb, h]
  simp only [if_true]
  rw [takeAnswer_eq _ (by rw [rxDue_rxAttempt, h]), rxAttempt_stationAddr]

/-- An idle engine's turn with no word waiting. -/
theorem turn_idle_empty {s : State} (hb : s.busy = false) (hp : s.port = []) : turn s = .next s := by
  simp [turn, hb, hp]

/-- An idle engine's turn takes the oldest waiting word. -/
theorem turn_idle_word {s : State} {w : BitVec 32} {ws : List (BitVec 32)} (hb : s.busy = false)
    (hp : s.port = w :: ws) : turn s = takeWord w { s with port := ws } := by
  simp [turn, hb, hp]

/-- What an accepted, refused or rejected word does to an idle engine (30_encoding.md R72). -/
theorem screenCommand_cases (cause : Option Reason) (start : State → State) (s : State) :
    (∃ r, r ≠ .none ∧ screenCommand cause start s = refuse r s ∧ (r = .cfg ∨ r = .closed ∨ cause = some r)) ∨
    (cause = some .none ∧ s.cfgErr = false ∧ s.closed = false) ∨
    (s.cfgErr = false ∧ s.closed = false ∧ cause = none ∧ screenCommand cause start s = start s) := by
  unfold screenCommand
  cases h1 : s.cfgErr with
  | true => exact .inl ⟨.cfg, by decide, by simp, .inl rfl⟩
  | false =>
    cases h2 : s.closed with
    | true => exact .inl ⟨.closed, by decide, by simp, .inr (.inl rfl)⟩
    | false =>
      cases cause with
      | none => exact .inr (.inr ⟨rfl, rfl, rfl, by simp⟩)
      | some r =>
        by_cases hr : r = .none
        · subst hr; exact .inr (.inl ⟨rfl, rfl, rfl⟩)
        · exact .inl ⟨r, hr, by simp, .inr (.inr rfl)⟩

end Sys2Proof.Machine
end

