-- ==== Sys2Proof/Laws/Invariant.lean ====
section
/-! SUPPORT. Each shared operation keeps the invariant of Safety.lean: the lemmas an induction over steps cites. -/

namespace Sys2Proof.Machine

/-! ### Sequence arithmetic -/

/-- `(a + n) -8 b` for a count that fits behind `a -8 b`. -/
theorem seq_sub_toNat (a b : SeqNum) : (a - b).toNat = (8 + a.toNat - b.toNat) % 8 := by
  revert a b; decide +kernel

theorem seq_eq_iff (a b : SeqNum) : a = b ↔ a.toNat = b.toNat := BitVec.toNat_inj.symm

/-- W mod 8 of a legal window size is W. -/
theorem windowSeq_toNat {s : State} (h : s.w.toNat ≤ 7) : (windowSeq s).toNat = s.w.toNat := by
  simp [windowSeq]; omega

theorem windowSizeLegal {s : State} (h : s.cfgErr = windowSizeIllegal s.w) (hc : s.cfgErr = false) :
    1 ≤ s.w.toNat ∧ s.w.toNat ≤ 7 := by
  rw [hc] at h
  have h := of_decide_eq_false h.symm
  omega

/-- Part (c) of the window invariant follows from (a) and (b) for a legal W (10_state.md R24). -/
theorem openTest_of {s : State} (hw : 1 ≤ s.w.toNat ∧ s.w.toNat ≤ 7) (ha : s.fb.length ≤ s.w.toNat)
    (hb : windowOffset s ≤ s.fb.length) : s.vs ≠ s.rhs ↔ windowOffset s < s.w.toNat := by
  have hws := windowSeq_toNat hw.2
  have h1 := s.vs.isLt
  have h2 := s.rhs.isLt
  have hne : s.vs ≠ s.rhs ↔ s.vs.toNat ≠ s.rhs.toNat := not_congr (seq_eq_iff _ _)
  rw [hne]
  unfold windowOffset leftEdge at hb ⊢
  rw [seq_sub_toNat, seq_sub_toNat, hws] at hb ⊢
  omega

/-! ### Operations that touch no register of the invariant -/

/-- The invariant does not read the environment or the TX history. -/
theorem EngineInv.of_environment {s : State} (h : EngineInv s) (tx : List TxEntry) (port : List (BitVec 32))
    (rx : List (Option Bits)) (n : Nat) (env : List Event) (reads : List ReadWord) :
    EngineInv { s with tx := tx, port := port, rx := rx, rxDrawn := n, env := env, reads := reads } :=
  ⟨h.params, ⟨h.window.1, h.window.2, h.window.3⟩,
    ⟨h.sequencer.1, h.sequencer.2, h.sequencer.3, h.sequencer.4, h.sequencer.5⟩,
    ⟨h.transfer.1, h.transfer.2, h.transfer.3, h.transfer.4, h.transfer.5, h.transfer.6, h.transfer.7⟩,
    h.result, ⟨h.storage.1, h.storage.2⟩, h.cfg, h.reason⟩

theorem EngineInv.rxAttempt {s : State} (h : EngineInv s) : EngineInv (rxAttempt s).2 := by
  unfold Machine.rxAttempt
  split
  · exact h.of_environment s.tx s.port _ _ s.env s.reads
  · exact h.of_environment s.tx s.port s.rx _ s.env s.reads

/-- A refusal keeps the invariant (60_exceptions.md R149). -/
theorem EngineInv.refuse {s : State} (h : EngineInv s) {r : Reason} (hr : r ≠ .none) : EngineInv (refuse r s) :=
  ⟨h.params, ⟨h.window.1, h.window.2, h.window.3⟩,
    ⟨h.sequencer.1, h.sequencer.2, h.sequencer.3, h.sequencer.4, h.sequencer.5⟩,
    ⟨h.transfer.1, h.transfer.2, h.transfer.3, h.transfer.4, h.transfer.5, h.transfer.6, h.transfer.7⟩,
    h.result, ⟨h.storage.1, h.storage.2⟩, h.cfg, by simp [hr]⟩

/-! ### Reset -/

/-- Reset makes the invariant, whatever the inputs (70_reset_and_hazards.md R163). -/
theorem EngineInv.applyReset {s : State} (h : paramsOk s.params) (a : BitVec 8) (n : BitVec 4) : EngineInv (applyReset a n s) where
  params := h
  window :=
    { occupancy := Nat.zero_le _
      offset := by simp [windowOffset, leftEdge, windowSeq]
      openTest := by
        intro hc
        have hw : 1 ≤ n.toNat ∧ n.toNat ≤ 7 := windowSizeLegal (s := Machine.applyReset a n s) rfl hc
        exact openTest_of (s := Machine.applyReset a n s) hw (Nat.zero_le _)
          (by simp [windowOffset, leftEdge, windowSeq]) }
  sequencer := ⟨rfl, rfl, fun h => by simp at h, fun _ => rfl, fun h => by simp at h⟩
  transfer :=
    { vr_zero := rfl
      len_le := Nat.zero_le _
      total := show (0 : BitVec 16) = fragmentCount 0 by decide
      next_le := le_refl _
      buffer := ⟨Nat.zero_le _, fun k hk => absurd hk (Nat.not_lt_zero _)⟩
      done_outside := fun _ => ⟨rfl, rfl⟩
      fresh_before_loop := fun h => by simp at h }
  result := ⟨rfl, rfl⟩
  storage := ⟨memoryWf_nil, fun x hx => by simp at hx⟩
  cfg := rfl
  reason := rfl

/-! ### The SDU buffer -/

/-- While idle the frame buffer is empty (70_reset_and_hazards.md R174). -/
theorem EngineInv.fb_nil_of_idle {s : State} (h : EngineInv s) (hb : s.busy = false) : s.op = .idle ∧ s.fb = [] := by
  have hop : s.op = .idle := by
    have := h.sequencer.busy_iff
    rw [hb] at this
    simpa using this
  exact ⟨hop, (h.transfer.done_outside (by rw [hop]; decide)).1⟩

/-- An empty frame buffer holds what it should. -/
theorem bufferHolds_nil {s : State} (h : s.fb = []) : bufferHolds s := by
  refine ⟨by simp [h], fun k hk => ?_⟩
  rw [h] at hk; exact absurd hk (Nat.not_lt_zero _)

/-- SduWrite keeps the invariant (20_memory.md R44). -/
theorem EngineInv.sduWrite {s : State} (h : EngineInv s) (i : Nat) (v : Byte) : EngineInv (sduWrite i v s) := by
  unfold Machine.sduWrite
  split
  · exact h.refuse (by decide)
  · split
    · exact h.refuse (by decide)
    · rename_i hb hi
      have hfb := (h.fb_nil_of_idle (by simpa using hb)).2
      refine ⟨h.params, ⟨h.window.1, h.window.2, h.window.3⟩,
        ⟨h.sequencer.1, h.sequencer.2, h.sequencer.3, h.sequencer.4, h.sequencer.5⟩,
        ⟨h.transfer.1, h.transfer.2, h.transfer.3, h.transfer.4, bufferHolds_nil hfb, h.transfer.6, h.transfer.7⟩,
        h.result, ⟨memoryWf_write h.storage.1 i v, fun x hx => ?_⟩, h.cfg, h.reason⟩
      rcases mem_memoryWrite hx with rfl | hx
      · simpa using hi
      · exact h.storage.2 x hx

/-! ### Commands -/

/-- Starting a command with one of its phases, on an idle engine that may run commands. -/
theorem EngineInv.startCommand {s : State} (h : EngineInv s) (hb : s.busy = false) (hc : s.cfgErr = false)
    (hcl : s.closed = false) {op : Op} {phase : Phase} (hop : op ≠ .idle)
    (hp : phaseFits op phase = true) (hps : phase ≠ .pollSync) : EngineInv (startCommand op phase s) := by
  have hi := h.fb_nil_of_idle hb
  have hdone := h.transfer.done_outside (by rw [hi.1]; decide)
  exact ⟨h.params, ⟨h.window.1, h.window.2, h.window.3⟩,
    ⟨by simp [hop], hp, fun _ => rfl, fun h' => by simp [hc] at h', fun h' => by simp [hcl] at h'⟩,
    ⟨h.transfer.1, h.transfer.2, h.transfer.3, h.transfer.4, bufferHolds_nil hi.2, fun _ => hdone,
      fun h' => absurd h' hps⟩,
    h.result, ⟨h.storage.1, h.storage.2⟩, h.cfg, h.reason⟩

/-- DATA_REQ's acceptance (43_transfer_engine.md R118). -/
theorem EngineInv.dataReqAccept {s : State} (h : EngineInv s) (hb : s.busy = false) (hc : s.cfgErr = false)
    (hcl : s.closed = false) {len : BitVec 16} (hl : len.toNat ≤ s.params.maxSduBytes) :
    EngineInv (dataReqAccept len s) := by
  have hi := h.fb_nil_of_idle hb
  exact ⟨h.params, ⟨h.window.1, h.window.2, h.window.3⟩,
    ⟨by simp, rfl, fun _ => rfl, fun h' => by simp [hc] at h', fun h' => by simp [hcl] at h'⟩,
    ⟨h.transfer.1, hl, rfl, Nat.zero_le _, bufferHolds_nil hi.2, fun h' => absurd rfl h', fun _ => ⟨hi.2, rfl⟩⟩,
    h.result, ⟨h.storage.1, h.storage.2⟩, h.cfg, h.reason⟩

/-- Completion with an allowed result keeps the invariant once the transfer, if any, is done (60_exceptions.md R145,
R146). -/
theorem EngineInv.complete {s : State} (h : EngineInv s) (hd : s.fb = [] ∧ s.fragNext = s.fragTotal)
    (hcl : s.closed = true → s.connState = .disconnected) (code : ResCode) (v : BitVec 8) (k : DiagKind)
    (d : BitVec 5) (hr : resultOk (complete code v k d s)) : EngineInv (complete code v k d s) :=
  ⟨h.params, ⟨h.window.1, h.window.2, h.window.3⟩,
    ⟨rfl, rfl, fun h' => by simp at h', fun _ => rfl, fun h' => ⟨rfl, hcl h'⟩⟩,
    ⟨h.transfer.1, h.transfer.2, h.transfer.3, h.transfer.4, bufferHolds_nil hd.1, fun _ => hd,
      fun h' => by simp at h'⟩,
    hr, ⟨h.storage.1, h.storage.2⟩, h.cfg, h.reason⟩

/-- A busy engine is neither closed nor misconfigured. -/
theorem EngineInv.open_of_busy {s : State} (h : EngineInv s) (hop : s.op ≠ .idle) : s.cfgErr = false ∧ s.closed = false := by
  constructor
  · by_contra hc; exact hop (h.sequencer.idle_of_cfgErr (by simpa using hc))
  · by_contra hc; exact hop (h.sequencer.idle_of_closed (by simpa using hc)).1

/-- An indication's step keeps the invariant (41_connection.md R100, R102, R106). -/
theorem EngineInv.indicationOn {s : State} (h : EngineInv s) (hop : s.op ≠ .idle) (hd : s.op ≠ .dataReq) {r : Received}
    (hr : r = .retry ∨ (∃ t, r = .malformed s.stationAddr t) ∨ ∃ t c info, r = .frame s.stationAddr t c info)
    (want : BitVec 5) (reached : ConnState) : EngineInv (indicationOn want reached r s) := by
  have hdone := h.transfer.done_outside hd
  have hcl := (h.open_of_busy hop).2
  rcases hr with rfl | ⟨t, rfl⟩ | ⟨t, c, info, rfl⟩
  · exact h
  · refine h.complete hdone (fun h' => by simp [hcl] at h') _ _ _ _ ⟨rfl, ?_, rfl⟩
    rcases t with _ | t
    · simp [typeCode]
    · cases t <;> simp [typeCode]
  · cases t with
    | i => exact h.complete hdone (fun h' => by simp [hcl] at h') _ _ _ _ ⟨rfl, by simp [typeCode], rfl⟩
    | s => exact h.complete hdone (fun h' => by simp [hcl] at h') _ _ _ _ ⟨rfl, by simp [typeCode], rfl⟩
    | u =>
      unfold Machine.indicationOn
      simp only
      split
      · have h' : EngineInv { s with connState := reached } :=
          ⟨h.params, ⟨h.window.1, h.window.2, h.window.3⟩,
            ⟨h.sequencer.1, h.sequencer.2, h.sequencer.3, h.sequencer.4, fun h' => by simp [hcl] at h'⟩,
            ⟨h.transfer.1, h.transfer.2, h.transfer.3, h.transfer.4, h.transfer.5, h.transfer.6, h.transfer.7⟩,
            h.result, ⟨h.storage.1, h.storage.2⟩, h.cfg, h.reason⟩
        exact h'.complete hdone (fun h'' => by simp [hcl] at h'') _ _ _ _ ⟨rfl, rfl⟩
      · exact h.complete hdone (fun h'' => by simp [hcl] at h'') _ _ _ _ ⟨rfl, rfl⟩

/-- CONN_RESP's step keeps the invariant (R101). -/
theorem EngineInv.connRespStep {s : State} (h : EngineInv s) (hop : s.op = .connResp) : EngineInv (connRespStep s) := by
  have hdone := h.transfer.done_outside (by rw [hop]; decide)
  have hcl := (h.open_of_busy (by rw [hop]; decide)).2
  have hcfg := (h.open_of_busy (by rw [hop]; decide)).1
  have hw := windowSizeLegal h.cfg hcfg
  have hoff : windowOffset (Machine.connRespStep s) = 0 := by simp [windowOffset, leftEdge, windowSeq]
  refine ⟨h.params, ⟨Nat.zero_le _, by rw [hoff]; exact Nat.zero_le _, fun _ => ?_⟩,
    ⟨rfl, rfl, fun h' => by simp at h', fun _ => rfl, fun h' => by simp [hcl] at h'⟩,
    ⟨rfl, h.transfer.2, h.transfer.3, h.transfer.4, bufferHolds_nil rfl, fun _ => ⟨rfl, hdone.2⟩,
      fun h' => by simp at h'⟩,
    ⟨rfl, rfl⟩, ⟨h.storage.1, h.storage.2⟩, h.cfg, h.reason⟩
  exact openTest_of (s := Machine.connRespStep s) hw (Nat.zero_le _) (by rw [hoff]; exact Nat.zero_le _)

/-- CLOSE's step keeps the invariant (R104). -/
theorem EngineInv.closeStep {s : State} (h : EngineInv s) (hop : s.op = .close) : EngineInv (closeStep s) := by
  have hdone := h.transfer.done_outside (by rw [hop]; decide)
  exact ⟨h.params, ⟨h.window.1, h.window.2, h.window.3⟩,
    ⟨rfl, rfl, fun h' => by simp at h', fun _ => rfl, fun _ => ⟨rfl, rfl⟩⟩,
    ⟨h.transfer.1, h.transfer.2, h.transfer.3, h.transfer.4, bufferHolds_nil hdone.1, fun _ => hdone,
      fun h' => by simp at h'⟩,
    ⟨rfl, rfl⟩, ⟨h.storage.1, h.storage.2⟩, h.cfg, h.reason⟩

/-! ### The transfer loop -/

/-- POLL_SYNC's step keeps the invariant (43_transfer_engine.md R121). -/
theorem EngineInv.pollSyncOn {s : State} (h : EngineInv s) (hop : s.op = .dataReq) (a : Option Ack) :
    EngineInv (pollSyncOn a s) := by
  unfold Machine.pollSyncOn
  split
  · exact ⟨h.params, ⟨h.window.1, h.window.2, h.window.3⟩,
      ⟨h.sequencer.1, by rw [hop]; rfl, h.sequencer.3, h.sequencer.4, h.sequencer.5⟩,
      ⟨h.transfer.1, h.transfer.2, h.transfer.3, h.transfer.4, h.transfer.5, h.transfer.6, fun h' => by simp at h'⟩,
      h.result, ⟨h.storage.1, h.storage.2⟩, h.cfg, h.reason⟩
  · exact h

theorem ofNat3_toNat (n : Nat) : (BitVec.ofNat 3 n).toNat = n % 8 := by simp

/-- The left edge after c acknowledged frames (43_transfer_engine.md R131). -/
theorem leftEdge_advance (s t : State) (c : Nat) (hr : t.rhs = s.rhs + BitVec.ofNat 3 c) (hw : t.w = s.w) :
    leftEdge t = leftEdge s + BitVec.ofNat 3 c := by
  unfold leftEdge windowSeq
  rw [hr, hw, BitVec.sub_eq_add_neg, BitVec.sub_eq_add_neg, BitVec.add_assoc, BitVec.add_assoc,
    BitVec.add_comm (BitVec.ofNat 3 c)]

/-- The acknowledged count names its N(R): `nr = LE +8 c` (R129). -/
theorem leftEdge_add_ackCount (s : State) (nr : SeqNum) : leftEdge s + BitVec.ofNat 3 (ackCount s nr) = nr := by
  unfold ackCount
  generalize leftEdge s = a
  revert a nr; decide +kernel

/-- VS is its offset from the left edge. -/
theorem leftEdge_add_offset (s : State) : leftEdge s + BitVec.ofNat 3 (windowOffset s) = s.vs := by
  unfold windowOffset
  generalize leftEdge s = a
  generalize s.vs = b
  revert a b; decide +kernel

/-- VS one further on, while the offset stays a sequence number. -/
theorem offset_succ (a b : SeqNum) (h : (a - b).toNat < 7) : (a + 1 - b).toNat = (a - b).toNat + 1 := by
  revert a b; decide +kernel

/-- The offset from a left edge c further on. -/
theorem offset_advance (a b : SeqNum) (c : Nat) (h : c ≤ (a - b).toNat) :
    (a - (b + BitVec.ofNat 3 c)).toNat = (a - b).toNat - c := by
  have hc : c < 8 := lt_of_le_of_lt h (a - b).isLt
  interval_cases c <;> (revert a b; decide +kernel)

/-- The registers a transmit sub-step may write keep the invariant when the window and the buffer do. -/
theorem EngineInv.of_loop {s t : State} (h : EngineInv s) (hop : s.op = .dataReq) (hph : s.phase = .loop)
    (same : t = { s with vs := t.vs, rhs := t.rhs, fb := t.fb, fragNext := t.fragNext, tx := t.tx })
    (hocc : t.fb.length ≤ s.w.toNat) (hoff : windowOffset t ≤ t.fb.length)
    (hnext : t.fragNext.toNat ≤ s.fragTotal.toNat) (hbuf : bufferHolds t) : EngineInv t := by
  have hcfg := (h.open_of_busy (by rw [hop]; decide)).1
  have hw := windowSizeLegal h.cfg hcfg
  have hopen : t.cfgErr = false → (t.vs ≠ t.rhs ↔ windowOffset t < t.w.toNat) := fun _ => by
    have hw' : t.w = s.w := by rw [same]
    exact openTest_of (by rw [hw']; exact hw) (by rw [hw']; exact hocc) hoff
  rw [same] at hoff hbuf hopen ⊢
  exact ⟨h.params, ⟨hocc, hoff, hopen⟩,
    ⟨h.sequencer.1, h.sequencer.2, h.sequencer.3, h.sequencer.4, h.sequencer.5⟩,
    ⟨h.transfer.1, h.transfer.2, h.transfer.3, hnext, hbuf, fun h' => absurd hop h',
      fun h' => by rw [show s.phase = .pollSync from h'] at hph; cases hph⟩,
    h.result, ⟨h.storage.1, h.storage.2⟩, h.cfg, h.reason⟩

/-- The final bit of the fragment about to be sent, in numbers (R124, R126). -/
theorem finalBit_eq {s : State} (h : s.fragNext.toNat < s.fragTotal.toNat) :
    finalBit s = decide (s.fragNext.toNat + 1 = s.fragTotal.toNat) := by
  unfold finalBit
  rw [Bool.eq_iff_iff]
  simp only [beq_iff_eq, decide_eq_true_eq]
  constructor <;> intro h'
  · rw [← BitVec.toNat_inj] at h'
    have := s.fragTotal.isLt
    simp at h'; omega
  · rw [← BitVec.toNat_inj]
    have := s.fragTotal.isLt
    simp; omega

/-- The transmit sub-step keeps the invariant (R123 to R125). -/
theorem EngineInv.txSubStep {s t : State} (h : EngineInv s) (hop : s.op = .dataReq) (hph : s.phase = .loop)
    (ht : txSubStep s = .ok t) : EngineInv t ∧ t.op = .dataReq ∧ t.phase = .loop := by
  have hcfg := (h.open_of_busy (by rw [hop]; decide)).1
  have hw := windowSizeLegal h.cfg hcfg
  have hocc := h.window.occupancy
  have hoffle := h.window.offset
  rcases txSubStep_cases ht with ⟨rfl, -⟩ | ⟨-, hr, f, hf, rfl⟩ | ⟨-, hr, hu, bytes, hb, hroom, rfl⟩
  · exact ⟨h, hop, hph⟩
  · refine ⟨?_, hop, hph⟩
    have hlt : windowOffset s < s.fb.length := of_decide_eq_true hr
    have hsucc : windowOffset { transmit f s with vs := s.vs + 1 } = windowOffset s + 1 :=
      offset_succ s.vs (leftEdge s) (by unfold windowOffset at hlt; omega)
    exact h.of_loop hop hph rfl hocc (by rw [hsucc]; exact hlt) h.transfer.next_le h.transfer.buffer
  · refine ⟨?_, hop, hph⟩
    have hge : ¬ windowOffset s < s.fb.length := of_decide_eq_false hr
    have heq : windowOffset s = s.fb.length := by omega
    have hnt : s.fragNext.toNat < s.fragTotal.toNat := of_decide_eq_true hu
    have hsucc : (s.vs + 1 - leftEdge s).toNat = s.fb.length + 1 := by
      rw [← heq]; exact offset_succ s.vs (leftEdge s) (by unfold windowOffset at heq; omega)
    have hn1 : (s.fragNext + 1).toNat = s.fragNext.toNat + 1 := by
      have := s.fragTotal.isLt
      simp; omega
    refine h.of_loop hop hph rfl (by simpa using hroom) ?_ (by simp only; rw [hn1]; exact hnt) ?_
    · show (s.vs + 1 - leftEdge s).toNat ≤ _
      rw [hsucc]; simp
    · obtain ⟨hle, hent⟩ := h.transfer.buffer
      refine ⟨by simp only [List.length_append, List.length_singleton]; rw [hn1]; omega, fun k hk => ?_⟩
      simp only [List.length_append, List.length_singleton] at hk ⊢
      rw [hn1]
      have hidx : s.fragNext.toNat + 1 - (s.fb.length + 1) + k = s.fragNext.toNat - s.fb.length + k := by omega
      rw [hidx]
      by_cases hkl : k < s.fb.length
      · obtain ⟨bs, h1, h2⟩ := hent k hkl
        refine ⟨bs, h1, ?_⟩
        rw [List.getElem?_append_left hkl]
        exact h2
      · have hk' : k = s.fb.length := by omega
        subst hk'
        have hi : s.fragNext.toNat - s.fb.length + s.fb.length = s.fragNext.toNat := by omega
        rw [hi]
        refine ⟨bytes, hb, ?_⟩
        rw [List.getElem?_append_right (le_refl _), Nat.sub_self]
        simp only [List.getElem?_cons_zero, Option.some.injEq]
        rw [finalBit_eq hnt]
        have hvs : leftEdge s + BitVec.ofNat 3 s.fb.length = s.vs := by rw [← heq]; exact leftEdge_add_offset s
        rw [← hvs]
        rfl

/-- The acknowledgment sub-step completes and keeps the invariant (R128 to R133). -/
theorem EngineInv.ackSubStep {s : State} (h : EngineInv s) (hop : s.op = .dataReq) (hph : s.phase = .loop) (a : Option Ack) :
    ∃ t, ackSubStep a s = .ok t ∧ EngineInv t := by
  have hcfg := (h.open_of_busy (by rw [hop]; decide)).1
  have hw := windowSizeLegal h.cfg hcfg
  have hocc := h.window.occupancy
  rcases ackSubStep_cases a s with ⟨he, -⟩ | ⟨x, -, -, he⟩ | ⟨x, -, hpos, hcl, he⟩
  · exact ⟨s, he, h⟩
  · refine ⟨_, he, h.of_loop hop hph rfl hocc ?_ h.transfer.next_le h.transfer.buffer⟩
    show (leftEdge s - leftEdge s).toNat ≤ _
    simp
  · refine ⟨_, he, ?_⟩
    generalize hc : ackCount s x.nr = c at *
    have hle' : leftEdge { s with
        fb := s.fb.drop c
        rhs := s.rhs + BitVec.ofNat 3 c
        vs := if windowOffset s < c then x.nr else s.vs } = leftEdge s + BitVec.ofNat 3 c :=
      leftEdge_advance s _ c rfl rfl
    obtain ⟨hle, hent⟩ := h.transfer.buffer
    refine h.of_loop hop hph rfl (by simp only [List.length_drop]; omega) ?_ h.transfer.next_le ?_
    · rw [windowOffset, hle']
      simp only [List.length_drop]
      split
      · rw [← hc, leftEdge_add_ackCount]; simp
      · rename_i hge
        have hge : c ≤ (s.vs - leftEdge s).toNat := by unfold windowOffset at hge; omega
        rw [offset_advance _ _ _ hge]
        have := h.window.offset
        unfold windowOffset at this
        omega
    · refine ⟨by simp only [List.length_drop]; omega, fun k hk => ?_⟩
      simp only [List.length_drop] at hk ⊢
      obtain ⟨bs, h1, h2⟩ := hent (c + k) (by omega)
      have hi : s.fragNext.toNat - (s.fb.length - c) + k = s.fragNext.toNat - s.fb.length + (c + k) := by omega
      rw [hi]
      refine ⟨bs, h1, ?_⟩
      rw [List.getElem?_drop, h2, hle', BitVec.add_assoc]
      congr 3
      apply BitVec.eq_of_toNat_eq; simp

end Sys2Proof.Machine
end

