-- ==== Sys2Proof/Laws/Steps.lean ====
section
/-! SUPPORT. What one execution of an instruction, and one step, can do: the inversion lemmas that frames and
invariants cite (41_connection.md R100 to R104, 43_transfer_engine.md R118 to R135, 30_encoding.md R72). -/

namespace Sys2Proof.Machine

/-- What an `RxAttempt` can have received: Retry, or something addressed to this station. -/
def Heard (s : State) (r : Received) : Prop :=
  r = .retry ∨ (∃ t, r = .malformed s.stationAddr t) ∨ ∃ t c info, r = .frame s.stationAddr t c info

/-- Every next state an instruction's execution answers, by what it did. `v` is the state in which the engine step
runs: the one given, or the one with an answer of the channel consumed. -/
inductive Executed (s : State) : State → Prop where
  | nothing : Executed s s
  | refused (r : Reason) : s.busy = false → r ≠ .none → Executed s (refuse r s)
  | started (op : Op) (phase : Phase) : s.busy = false → s.cfgErr = false → s.closed = false →
      op ≠ .idle → op ≠ .dataReq → phaseFits op phase = true → Executed s (startCommand op phase s)
  | accepted (len : BitVec 16) : s.busy = false → s.cfgErr = false → s.closed = false →
      len.toNat ≤ s.params.maxSduBytes → Executed s (dataReqAccept len s)
  | connInd (v : State) (r : Received) : s.busy = true → s.op = .connInd → s.phase = .wait →
      (v = s ∨ v = (rxAttempt s).2) → Heard s r → Executed s (connIndOn r v)
  | discInd (v : State) (r : Received) : s.busy = true → s.op = .discInd → s.phase = .wait →
      (v = s ∨ v = (rxAttempt s).2) → Heard s r → Executed s (discIndOn r v)
  | connResp : s.busy = true → s.op = .connResp → Executed s (connRespStep s)
  | close : s.busy = true → s.op = .close → Executed s (closeStep s)
  | pollSync (v : State) (a : Option Ack) : s.busy = true → s.op = .dataReq → s.phase = .pollSync →
      (v = s ∨ v = (rxAttempt s).2) → Executed s (pollSyncOn a v)
  | loop (v t : State) (a : Option Ack) : s.busy = true → s.op = .dataReq → s.phase = .loop →
      (v = s ∨ v = (rxAttempt s).2) → loopStep a v = .ok t → Executed s t

theorem heard_receiveFrame (s : State) (x : Option Bits) : Heard s (receiveFrame s.stationAddr x) := by
  rcases receiveFrame_cases s.stationAddr x with h | ⟨t, h⟩ | ⟨c, info, h⟩
  · exact .inl h
  · exact .inr (.inl ⟨t, h⟩)
  · exact .inr (.inr ⟨_, c, info, h⟩)

theorem outcome_next {e : Except Fault State} {t : State} (h : outcome e = .next t) : e = .ok t := by
  cases e with
  | ok u => injection h with h; rw [h]
  | error f => cases h

/-- The engine step that received r. -/
theorem executed_onReceived {s v t : State} {r : Received} (hd : rxDue s = true) (hv : v = s ∨ v = (rxAttempt s).2)
    (hr : Heard s r) (h : onReceived r v = .next t) : Executed s t := by
  have hop : v.op = s.op := by rcases hv with rfl | rfl <;> simp
  have hph : v.phase = s.phase := by rcases hv with rfl | rfl <;> simp
  obtain ⟨hb, h1 | h1 | h1 | h1⟩ := rxDue_cases hd
  · unfold onReceived at h; rw [hop, hph, h1.1, h1.2] at h
    injection h with h; rw [← h]; exact .connInd v r hb h1.1 h1.2 hv hr
  · unfold onReceived at h; rw [hop, hph, h1.1, h1.2] at h
    injection h with h; rw [← h]; exact .discInd v r hb h1.1 h1.2 hv hr
  · unfold onReceived at h; rw [hop, hph, h1.1, h1.2] at h
    injection h with h; rw [← h]; exact .pollSync v (ackOf r) hb h1.1 h1.2 hv
  · unfold onReceived at h; rw [hop, hph, h1.1, h1.2.1] at h
    exact .loop v t (ackOf r) hb h1.1 h1.2.1 hv (outcome_next h)

/-- A control field's arrival. -/
theorem executed_frameArrives {s t : State} {c : BitVec 8} (h : frameArrives c s = .next t) : Executed s t := by
  unfold frameArrives at h
  split at h
  · rename_i hd
    exact executed_onReceived hd (.inl rfl) (.inr (.inr ⟨_, _, _, rfl⟩)) h
  · injection h with h; rw [← h]; exact .nothing

/-- A command's execution. -/
theorem executed_runCommand {s t : State} {op : Op} {accept : State → State} {engine : State → StepResult}
    (h : runCommand op accept engine s = .next t) (ha : s.busy = false → Executed s (accept s))
    (he : s.busy = true → s.op = op → engine s = .next t → Executed s t) : Executed s t := by
  unfold runCommand at h
  split at h
  · rename_i hb
    split at h
    · rename_i hop; exact he hb hop h
    · injection h with h; rw [← h]; exact .nothing
  · rename_i hb
    injection h with h; rw [← h]; exact ha (by simpa using hb)

theorem executed_screen {s : State} {op : Op} {phase : Phase} (hb : s.busy = false) (h1 : op ≠ .idle)
    (h2 : op ≠ .dataReq) (h3 : phaseFits op phase = true) :
    Executed s (screenCommand none (startCommand op phase) s) := by
  rcases screenCommand_cases none (startCommand op phase) s with ⟨r, hr, he, -⟩ | ⟨h, -⟩ | ⟨hc, hcl, -, he⟩
  · rw [he]; exact .refused r hb hr
  · cases h
  · rw [he]; exact .started op phase hb hc hcl h1 h2 h3

/-- Everything an instruction's execution can do. -/
theorem exec_executed {i : Instr} {s t : State} (h : exec i s = .next t) : Executed s t := by
  cases i with
  | connInd =>
    refine executed_runCommand h (fun hb => executed_screen hb (by decide) (by decide) rfl) fun hb hop he => ?_
    unfold connIndStep at he
    split at he
    · rename_i hp
      injection he with he; rw [← he]
      exact .connInd _ _ hb hop hp (.inr rfl) (heard_receiveFrame s _)
    · cases he
  | connResp =>
    refine executed_runCommand (op := .connResp) (accept := screenCommand none (startCommand .connResp .none))
      (engine := fun u => .next (connRespStep u)) h (fun hb => executed_screen hb (by decide) (by decide) rfl) fun hb hop he => ?_
    injection he with he; rw [← he]; exact .connResp hb hop
  | discInd =>
    refine executed_runCommand h (fun hb => executed_screen hb (by decide) (by decide) rfl) fun hb hop he => ?_
    unfold discIndStep at he
    split at he
    · rename_i hp
      injection he with he; rw [← he]
      exact .discInd _ _ hb hop hp (.inr rfl) (heard_receiveFrame s _)
    · cases he
  | close =>
    refine executed_runCommand (op := .close) (accept := screenCommand none (startCommand .close .none))
      (engine := fun u => .next (closeStep u)) h (fun hb => executed_screen hb (by decide) (by decide) rfl) fun hb hop he => ?_
    injection he with he; rw [← he]; exact .close hb hop
  | dataReq len =>
    refine executed_runCommand h (fun hb => ?_) fun hb hop he => ?_
    · rcases screenCommand_cases (lenCause len s) (dataReqAccept len) s with
        ⟨r, hr, he, -⟩ | ⟨hn, -⟩ | ⟨hc, hcl, hn, he⟩
      · rw [he]; exact .refused r hb hr
      · unfold lenCause at hn; split at hn <;> cases hn
      · rw [he]
        refine .accepted len hb hc hcl ?_
        unfold lenCause at hn; split at hn
        · cases hn
        · omega
    · unfold dataReqStep at he
      split at he
      · rename_i hp
        injection he with he; rw [← he]
        exact .pollSync _ _ hb hop hp (.inr rfl)
      · rename_i hp
        split at he
        · exact .loop s t none hb hop hp (.inl rfl) (outcome_next he)
        · exact .loop _ t _ hb hop hp (.inr rfl) (outcome_next he)
      · cases he
  | iFrame ns pf nr => exact executed_frameArrives h
  | rr pf nr => exact executed_frameArrives h
  | rnr pf nr => exact executed_frameArrives h
  | rej pf nr => exact executed_frameArrives h
  | srej pf nr => exact executed_frameArrives h
  | snrm pf => exact executed_frameArrives h
  | disc pf => exact executed_frameArrives h
  | ua pf => exact executed_frameArrives h
  | uOther m1 pf m2 => exact executed_frameArrives h

/-- A step at the engine's turn is the turn. -/
theorem step_atTurn {s u : State} (h : atTurn s = some u) : step s = turn u := by
  unfold atTurn at h
  unfold step
  split at h
  · rename_i he; rw [he]; injection h with h; rw [h]
  · rename_i es he; rw [he]; injection h with h; rw [← h]; rfl
  · cases h

/-- Everything a turn can do: an idle engine waits or executes or refuses the word at its port, a busy one executes
its engine step. -/
theorem turn_executed {s t : State} (h : turn s = .next t) :
    (s.busy = true ∧ Executed s t) ∨ (s.busy = false ∧ s.port = [] ∧ t = s) ∨
      (s.busy = false ∧ ∃ w ws, s.port = w :: ws ∧ Executed { s with port := ws } t) := by
  rcases Bool.eq_false_or_eq_true s.busy with hb | hb
  · refine .inl ⟨hb, ?_⟩
    cases hd : rxDue s with
    | true =>
      rw [turn_receiving hd] at h
      exact executed_onReceived hd (.inr rfl) (heard_receiveFrame s _) h
    | false =>
      simp only [turn, hb, hd, if_true, Bool.false_eq_true, if_false] at h
      split at h
      · exact exec_executed h
      · cases h
  · refine .inr ?_
    cases hp : s.port with
    | nil => rw [turn_idle_empty hb hp] at h; injection h with h; exact .inl ⟨hb, rfl, h.symm⟩
    | cons w ws =>
      refine .inr ⟨hb, w, ws, rfl, ?_⟩
      rw [turn_idle_word hb hp] at h
      unfold takeWord at h
      split at h
      · exact exec_executed h
      · rename_i e _
        injection h with h
        rw [← h]
        rcases screenCommand_cases (some (rejectReason e)) id { s with port := ws } with
          ⟨r, hr, he, -⟩ | ⟨hn, -⟩ | ⟨-, -, hn, -⟩
        · rw [he]; exact .refused r hb hr
        · cases e <;> cases hn
        · cases hn

/-- A step is the engine's turn, or one event of the environment. -/
theorem step_cases {s t : State} (h : step s = .next t) :
    (∃ u, atTurn s = some u ∧ turn u = .next t) ∨
      ∃ e es, s.env = e :: es ∧ e ≠ .turn ∧ takeEvent e { s with env := es } = .next t := by
  unfold step at h
  cases he : s.env with
  | nil => rw [he] at h; exact .inl ⟨s, by simp [atTurn, he], h⟩
  | cons e es =>
    rw [he] at h
    by_cases ht : e = .turn
    · subst ht; exact .inl ⟨{ s with env := es }, by simp [atTurn, he], h⟩
    · exact .inr ⟨e, es, rfl, ht, h⟩

/-- At the engine's turn only the pending event differs. -/
theorem atTurn_eq {s u : State} (h : atTurn s = some u) : u = { s with env := u.env } := by
  unfold atTurn at h
  split at h
  · injection h with h; rw [← h]
  · injection h with h; rw [← h]
  · cases h

end Sys2Proof.Machine
end

