-- ==== Sys2Proof/Tests/Slice0.lean ====
section
/-! SUPPORT. The model's own tests. Expected values are those of spec/95_test_vectors.md (the vector's name stands beside
each), computed there from the rules. Then a witness for every statement that has hypotheses. -/

namespace Sys2Proof.Tests

open Sys2Proof Sys2Proof.Machine

/-! ### Helpers -/

/-- The next state, where there is one. -/
def nextOf : StepResult → Option State
  | .next s => some s
  | _ => none

/-- STATUS, RESULT and WINDOW of the next state. -/
def wordsOf (r : StepResult) : Option (BitVec 16 × BitVec 32 × BitVec 16) :=
  (nextOf r).map fun s => (statusWord s, resultWord s, windowWord s)

/-- The fault, where there is one. -/
def faultOf : StepResult → Option Fault
  | .fault f => some f
  | _ => none

/-- The engine right after reset with STATION_ADDR 3 and W 4 (95, Conventions). -/
def idle : State := State.reset

/-- CONN_IND in its WAIT phase. -/
def connecting : State := startCommand .connInd .wait idle

/-- DISC_IND in its WAIT phase, CONN_STATE 2. -/
def disconnecting : State := { startCommand .discInd .wait idle with connState := .connected }

/-- DATA_REQ 1 in POLL_SYNC with the SDU byte 41H written. -/
def polling : State := dataReqAccept 1 (sduWrite 0 0x41 { idle with connState := .connected })

/-- DATA_REQ 1 in its loop. -/
def looping : State := { polling with phase := .loop }

/-- The one frame of that SDU, I(3,0,1,0,<41H>), written out (T-POLL-1, step 7). -/
def frameA : Bits :=
  [false, true, true, true, true, true, true, false, false, false, false, false, false, false, true, true,
   false, false, false, false, true, false, false, false, false, true, false, false, false, false, false, true,
   false, true, true, true, true, true, true, false]

/-- DATA_REQ 1 in its loop with that frame outstanding. -/
def outstanding : State :=
  { looping with vs := 1, fb := [frameA], fragNext := 1, tx := looping.tx ++ [.frame frameA] }

/-- DATA_REQ 1 in its loop, its frame acknowledged. -/
def finished : State := { outstanding with rhs := 5, fb := [] }

/-- W = 4 with the left edge 6 and four frames outstanding (T-ACK-5). -/
def wrapped : State := { looping with vs := 2, rhs := 2, fb := [[], [], [], []] }

/-! ### WellFormed refuses the ill-formed terms, for each check -/

theorem test_wf_refuses_uOther_snrm : (Instr.uOther 0 true 1).wellFormed = false := by decide
theorem test_wf_refuses_uOther_disc : (Instr.uOther 0 false 2).wellFormed = false := by decide
theorem test_wf_refuses_uOther_ua : (Instr.uOther 0 true 6).wellFormed = false := by decide
theorem test_wf_takes_uOther : (Instr.uOther 0 false 0).wellFormed = true ∧ (Instr.uOther 1 false 1).wellFormed = true ∧
    (Instr.uOther 3 true 7).wellFormed = true := by decide

/-! ### Decoding, words written out from 30_encoding.md R59 to R65, R70, R71 -/

theorem test_decode_commands :
    decodeCommand 0b0000000000000000_0000000000000_001#32 = .ok .connInd ∧
    decodeCommand 0b0000000000000000_0000000000000_010#32 = .ok .connResp ∧
    decodeCommand 0b0000000000000000_0000000000000_011#32 = .ok .discInd ∧
    decodeCommand 0b0000000011001000_0000000000000_100#32 = .ok (.dataReq 200) ∧
    decodeCommand 0b1111111111111111_0000000000000_100#32 = .ok (.dataReq 65535) ∧
    decodeCommand 0b0000000000000000_0000000000000_101#32 = .ok .close := by decide +kernel

theorem test_decode_rejected_words :
    decodeCommand 0b0000000000000000_0000000000000_000#32 = .error .opcode ∧
    decodeCommand 0b0000000000000000_0000000000000_110#32 = .error .opcode ∧
    decodeCommand 0b0000000000000000_0000000000000_111#32 = .error .opcode ∧
    decodeCommand 0b0000000000000000_0000000000001_000#32 = .error .opcode ∧
    decodeCommand 0b0000000000000000_0000000000001_001#32 = .error .rsvBits ∧
    decodeCommand 0b0000000000000001_0000000000000_001#32 = .error .rsvBits ∧
    decodeCommand 0b0000000000000000_1111111111111_100#32 = .error .rsvBits := by decide +kernel

theorem test_decode_frames :
    decodeControl 0b0_111_0_101#8 = .iFrame 7 false 5 ∧ decodeControl 0b10_00_1_000#8 = .rr true 0 ∧
    decodeControl 0b10_10_1_000#8 = .rnr true 0 ∧ decodeControl 0b10_01_1_111#8 = .rej true 7 ∧
    decodeControl 0b10_11_0_101#8 = .srej false 5 ∧ decodeControl 0b11_00_0_001#8 = .snrm false ∧
    decodeControl 0b11_00_1_010#8 = .disc true ∧ decodeControl 0b11_00_1_110#8 = .ua true ∧
    decodeControl 0b11_11_0_100#8 = .uOther 3 false 4 ∧ decodeControl 0b11_00_0_000#8 = .uOther 0 false 0 := by
  decide +kernel

theorem test_encode_ua : encode (.ua true) = .control 0xCE := by decide +kernel              -- T-ENC-5
theorem test_encode_dataReq : encode (.dataReq 200) = .command 0x00C80004 := by decide +kernel -- W4

/-! ### Frames (95, 2.1 to 2.4) -/

/-- T-ENC-16: BuildI(bits_8(41H),2,1,0) = 01111110 00000011 00101000 01000001 01111110. -/
theorem test_buildI : buildI 3 (bitsOf (0x41 : Byte)) 2 true 0 =
    bitsOf (0b01111110_00000011_00101000_01000001_01111110 : BitVec 40) := by decide +kernel

/-- T-CLS-5, T-CLS-6, T-CLS-10: 17, 18 and 31 bits. -/
theorem test_classify_malformed :
    classify 3 (bitsOf (0b01111110_00000011_1 : BitVec 17)) = .malformed 3 none ∧
    classify 3 (bitsOf (0b01111110_00000011_11 : BitVec 18)) = .malformed 3 (some .u) ∧
    classify 3 (bitsOf (0b01111110_00000011_10001000_0111111 : BitVec 31)) = .malformed 3 (some .s) := by decide +kernel

/-- T-CLS-14: four bits after the closing flag stand in the information field. -/
theorem test_classify_extra_bits :
    classify 3 (bitsOf (0b01111110_00000011_11001001_01111110_1010 : BitVec 36)) =
      .frame 3 .u 0xC9 [false, true, true, true] := by decide +kernel

/-- T-RX-6, T-RX-5: REJ is no acknowledgment, RR(3,0,4) is one. -/
theorem test_receiveAck :
    receiveAck 3 (some (bitsOf (0b01111110_00000011_10011000_01111110 : BitVec 32))) = none ∧
    receiveAck 3 (some (bitsOf (0b01111110_00000011_10000100_01111110 : BitVec 32))) = some ⟨false, 4⟩ := by
  decide +kernel

/-! ### Reset (95, 2.8) -/

/-- T-RST-1. -/
theorem test_reset_words : statusWord idle = 0 ∧ resultWord idle = 0 ∧ windowWord idle = 0x0020 ∧
    configWord idle = 0x0403 ∧ xferWord idle = 0 := by decide +kernel

/-- T-RST-4, T-RST-2: W = 8 is a configuration error; W = 7 is not. -/
theorem test_reset_window_size :
    wordsOf (step { outstanding with env := [.reset 3 8] }) = some (0x0010, 0, 0x0000) ∧
    wordsOf (step { outstanding with env := [.reset 3 7] }) = some (0x0000, 0, 0x0038) := by decide +kernel

/-! ### One step of each command (95, 2.5, 2.6) -/

/-- T-CMD-11, the acceptance; T-CON-1, the completion. -/
theorem test_connInd : wordsOf (exec .connInd idle) = some (0x0481, 0, 0x0020) ∧
    wordsOf (exec .connInd { connecting with
      rx := [some (bitsOf (0b01111110_00000011_11001001_01111110 : BitVec 32))] }) =
      some (0x0022, 0x00030000, 0x0020) := by decide +kernel

/-- T-CON-12: 16 bits are malformed with type 3. -/
theorem test_connInd_malformed :
    wordsOf (exec .connInd { connecting with rx := [some (bitsOf (0b01111110_00000011 : BitVec 16))] }) =
      some (0x0002, 0x00030037, 0x0020) := by decide +kernel

/-- T-CON-24: the window is renumbered; T-CON-23: the UA sent is 01111110 00000011 11001110 01111110. -/
theorem test_connResp :
    wordsOf (exec .connResp (startCommand .connResp .none { idle with vs := 6, rhs := 2 })) =
      some (0x0042, 0x00030000, 0x0020) ∧
    (nextOf (exec .connResp (startCommand .connResp .none idle))).map (fun s => s.tx) =
      some [.reset, .frame (bitsOf (0b01111110_00000011_11001110_01111110 : BitVec 32))] := by decide +kernel

/-- T-CON-19: DISC(3,0) ends the connection, and nothing is sent. -/
theorem test_discInd : wordsOf (exec .discInd { disconnecting with
      rx := [some (bitsOf (0b01111110_00000011_11000010_01111110 : BitVec 32))] }) =
      some (0x0002, 0x00030000, 0x0020) ∧
    (nextOf (exec .discInd { disconnecting with
      rx := [some (bitsOf (0b01111110_00000011_11000010_01111110 : BitVec 32))] })).map (fun s => s.tx) =
      some [.reset] := by decide +kernel

/-- T-CMD-10: DATA_REQ 400; T-CMD-8: DATA_REQ 401 is refused, LEN. -/
theorem test_dataReq_acceptance :
    (nextOf (exec (.dataReq 400) idle)).map (fun s => (statusWord s, s.sduLen, s.fragTotal, s.fragNext)) =
      some (0x0A01, 400, 7, 0) ∧
    wordsOf (exec (.dataReq 401) idle) = some (0x5008, 0, 0x0020) := by decide +kernel

/-- T-POLL-1, step 7: the frame is sent and the RR with N(R) = 3 is ignored. -/
theorem test_dataReq_loop :
    (nextOf (exec (.dataReq 1) { looping with
        rx := [some (bitsOf (0b01111110_00000011_10000011_01111110 : BitVec 32))] })).map
      (fun s => (s.tx, s.vs, s.rhs, s.fb)) =
      some ([.reset, .frame frameA], 1, 4, [frameA]) := by decide +kernel

/-- T-CON-25. -/
theorem test_close : (nextOf (exec .close (startCommand .close .none idle))).map
    (fun s => (statusWord s, resultWord s, s.tx)) = some (0x0006, 0, [.reset, .closed]) := by decide +kernel

/-- T-CMD-12, T-CMD-14: a configuration error, then a closed engine, refuses. -/
theorem test_refusals :
    (wordsOf (exec .connInd { idle with w := 8, cfgErr := true, rhs := 0 })).map (fun x => x.1) = some 0x1018 ∧
    (wordsOf (exec .connInd { idle with closed := true, resultValid := true })).map (fun x => x.1) = some 0x200E := by
  decide +kernel

/-! ### One step of each frame kind (95, 2.5, 2.7) -/

/-- T-CON-5; T-CON-21. -/
theorem test_iFrame : wordsOf (exec (.iFrame 0 false 0) connecting) = some (0x0002, 0x00030005, 0x0020) ∧
    wordsOf (exec (.iFrame 0 false 0) disconnecting) = some (0x0042, 0x00030005, 0x0020) := by decide +kernel

/-- T-CON-6. -/
theorem test_rr_at_connInd : wordsOf (exec (.rr true 0) connecting) = some (0x0002, 0x00030015, 0x0020) := by
  decide +kernel

/-- T-POLL-1, steps 6 and 8: the poll leaves the window; N(R) = 1 retires the frame, RHS 5. -/
theorem test_rr_at_dataReq : wordsOf (exec (.rr true 5) polling) = some (0x0E41, 0, 0x0020) ∧
    wordsOf (exec (.rr false 1) outstanding) = some (0x0E41, 0, 0x0069) := by decide +kernel

/-- R69: RNR is "not RR"; T-CON-6's result for any S-frame. -/
theorem test_rnr : wordsOf (exec (.rnr true 0) connecting) = some (0x0002, 0x00030015, 0x0020) ∧
    wordsOf (exec (.rnr true 0) polling) = some (0x0A41, 0, 0x0020) := by decide +kernel

/-- T-CON-7; T-POLL-1, step 2. -/
theorem test_rej : wordsOf (exec (.rej true 0) connecting) = some (0x0002, 0x00030015, 0x0020) ∧
    wordsOf (exec (.rej true 0) polling) = some (0x0A41, 0, 0x0020) := by decide +kernel

/-- R69: SREJ is "not RR", in the loop too: the outstanding frame stays. -/
theorem test_srej : wordsOf (exec (.srej false 5) connecting) = some (0x0002, 0x00030015, 0x0020) ∧
    wordsOf (exec (.srej false 1) outstanding) = some (0x0E41, 0, 0x1021) := by decide +kernel

/-- T-CON-2; T-CON-20. -/
theorem test_snrm : wordsOf (exec (.snrm false) connecting) = some (0x0022, 0x00030000, 0x0020) ∧
    wordsOf (exec (.snrm true) disconnecting) = some (0x0042, 0x0003001A, 0x0020) := by decide +kernel

/-- T-CON-9; T-POLL-1, step 3. -/
theorem test_disc : wordsOf (exec (.disc true) connecting) = some (0x0002, 0x0003002A, 0x0020) ∧
    wordsOf (exec (.disc true) polling) = some (0x0A41, 0, 0x0020) := by decide +kernel

/-- T-CON-8. -/
theorem test_ua : wordsOf (exec (.ua true) connecting) = some (0x0002, 0x0003006A, 0x0020) := by decide +kernel

/-- T-CON-10; T-CON-11. -/
theorem test_uOther : wordsOf (exec (.uOther 3 false 4) connecting) = some (0x0002, 0x000301CA, 0x0020) ∧
    wordsOf (exec (.uOther 0 false 0) connecting) = some (0x0002, 0x0003000A, 0x0020) := by decide +kernel

/-! ### The window (95, 2.7) -/

/-- T-ACK-5c, T-ACK-5e, T-ACK-5f: partial across the wrap, go-back, invalid. -/
theorem test_ack_wrap :
    ((ackSubStep (some ⟨false, 1⟩) wrapped).toOption.map fun s => (s.fb.length, s.rhs, leftEdge s, s.vs)) =
      some (1, 5, 1, 2) ∧
    ((ackSubStep (some ⟨false, 6⟩) wrapped).toOption.map fun s => (s.fb.length, s.rhs, leftEdge s, s.vs)) =
      some (4, 2, 6, 6) ∧
    (ackSubStep (some ⟨false, 3⟩) wrapped).toOption = some wrapped := by decide +kernel

/-- T-ACK-6: a late acknowledgment passes VS, which is realigned. -/
theorem test_ack_realigns :
    ((ackSubStep (some ⟨true, 3⟩) { looping with vs := 1, rhs := 4, fb := [[], [], []] }).toOption.map
      fun s => (s.fb.length, s.rhs, leftEdge s, s.vs)) = some (0, 7, 3, 3) := by decide +kernel

/-- T-TX-3: FB[0] again, no push. -/
theorem test_tx_resend :
    ((txSubStep { looping with fragNext := 2, fragTotal := 2, fb := [frameA, []] }).toOption.map
      fun s => (s.tx, s.vs, s.fb)) = some ([.reset, .frame frameA], 1, [frameA, []]) := by decide +kernel

/-- DATA_REQ 1 with no SDU byte written faults at its first transmission (95, 2.8). -/
theorem test_unwritten_faults :
    faultOf (exec (.rr false 0) { looping with sdu := [] }) = some .unwrittenSduByte := by decide +kernel

/-! ### The codes of the register fields (R25, R26, R27, R144, R145, R150) -/

theorem test_codes :
    connCode .disconnected = 0 ∧ connCode .awaitingResponse = 1 ∧ connCode .connected = 2 ∧
    opCode .idle = 0 ∧ opCode .connInd = 1 ∧ opCode .connResp = 2 ∧ opCode .discInd = 3 ∧ opCode .dataReq = 4 ∧
    opCode .close = 5 ∧ phaseCode .none = 0 ∧ phaseCode .wait = 1 ∧ phaseCode .pollSync = 2 ∧ phaseCode .loop = 3 ∧
    resCodeCode .srvSuccessful = 0 ∧ resCodeCode .unexpectedFrameReceived = 1 ∧
    resCodeCode .unexpectedUFrameReceived = 2 ∧ resCodeCode .decodeFailure = 3 ∧
    diagKindCode .none = 0 ∧ diagKindCode .type = 1 ∧ diagKindCode .mod = 2 ∧
    reasonCode .none = 0 ∧ reasonCode .cfg = 1 ∧ reasonCode .closed = 2 ∧ reasonCode .opcode = 3 ∧
    reasonCode .rsvBits = 4 ∧ reasonCode .len = 5 ∧ reasonCode .sduBusy = 6 ∧ reasonCode .sduRange = 7 := by decide

/-! ### The host port (95, 2.6) -/

/-- T-CMD-17, T-CMD-18, T-CMD-19. -/
theorem test_sduWrite :
    (wordsOf (step { connecting with env := [.sduWrite 500 0x41] })).map (fun x => x.1) = some 0x6489 ∧
    (wordsOf (step { idle with env := [.sduWrite 400 0x41] })).map (fun x => x.1) = some 0x7008 ∧
    (nextOf (step { idle with env := [.sduWrite 399 0x41] })).map (fun s => (statusWord s, sduRead s 399)) =
      some (0, some 0x41) := by decide +kernel

/-- T-CMD-20: a word offered while busy is held. -/
theorem test_held : (nextOf (step { connecting with port := [2], rx := [none] })).map
    (fun s => (statusWord s, s.port)) = some (0x0481, [2]) := by decide +kernel

/-- What the host asks: a table word placed after reset is decoded and run (T-CMD-11's and T-CON-8's words). -/
theorem test_withFetchWord : decodeTableWord 32 1 = some .connInd ∧
    (wordsOf (step (State.reset.withFetchWord 32 1))).map (fun x => x.1) = some 0x0481 ∧
    decodeTableWord 8 0xC6 = some (.ua false) ∧
    wordsOf (step (State.reset.withFetchWord 8 0xC6)) = some (0x0002, 0x0003006A, 0x0020) := by decide +kernel

/-! ### Witnesses: concrete states and operands that meet each statement's hypotheses, clause by clause -/

/-- A frame of 32 bits, SNRM(3,1) (T-ENC-1), and the same with other delimiters (T-CLS-13). -/
def snrmBits : Bits := bitsOf (0b01111110_00000011_11001001_01111110 : BitVec 32)
def snrmBare : Bits := bitsOf (0b00000000_00000011_11001001_00000000 : BitVec 32)

/-- Answers an indication can get: DISC(3,0), UA(3,1), I(3,0,0,0), RR(3,1,0), and 16 bits (T-CLS-4). -/
def discBits : Bits := bitsOf (0b01111110_00000011_11000010_01111110 : BitVec 32)
def uaBits : Bits := bitsOf (0b01111110_00000011_11001110_01111110 : BitVec 32)
def iBits : Bits := bitsOf (0b01111110_00000011_00000000_01111110 : BitVec 32)
def pollBits : Bits := bitsOf (0b01111110_00000011_10001000_01111110 : BitVec 32)
def shortBits : Bits := bitsOf (0b01111110_00000011 : BitVec 16)

theorem witness_DecodeEncodeRoundTrip : (Instr.uOther 0 false 7).wellFormed = true ∧ Instr.close.wellFormed = true := by
  decide

theorem witness_CommandDecodeRejectsReserved :
    (∃ w, decodeCommand w = .error .opcode) ∧ (∃ w, decodeCommand w = .error .rsvBits) ∧
      ∃ w i, decodeCommand w = .ok i :=
  ⟨⟨7, by decide +kernel⟩, ⟨8 + 5, by decide +kernel⟩, ⟨5, .close, by decide +kernel⟩⟩

/-- Strings of 16, 17, 18 and 24 bits, with every value of the two type bits. -/
theorem witness_FieldParsersReadTheirBits :
    16 ≤ shortBits.length ∧ 17 ≤ (shortBits ++ [false]).length ∧ bitAt (shortBits ++ [false]) 16 = false ∧
    18 ≤ (shortBits ++ [true, false]).length ∧ bitAt (shortBits ++ [true, false]) 16 = true ∧
    bitAt (shortBits ++ [true, false]) 17 = false ∧ bitAt (shortBits ++ [true, true]) 17 = true ∧
    24 ≤ (snrmBits.take 24).length := by decide +kernel

/-- Lengths 15, 16, 17, 18, 31, 32, this address and another, and each type bit. -/
theorem witness_ClassifyOutcomes :
    (shortBits.take 15).length < 16 ∧ parseAddress shortBits ≠ 5 ∧ 16 ≤ shortBits.length ∧
    parseAddress shortBits = 3 ∧ shortBits.length < 17 ∧
    17 ≤ (iBits.take 17).length ∧ bitAt (iBits.take 17) 16 = false ∧ (iBits.take 31).length < 32 ∧
    bitAt (snrmBits.take 17) 16 = true ∧ (snrmBits.take 17).length < 18 ∧
    18 ≤ (snrmBits.take 18).length ∧ bitAt (snrmBits.take 18) 16 = true ∧ bitAt (snrmBits.take 18) 17 = true ∧
    bitAt (pollBits.take 31) 17 = false ∧ 32 ≤ snrmBits.length := by decide +kernel

theorem witness_DelimitersAndExtraBitsUnread :
    atTurn connecting = some connecting ∧ rxDue connecting = true ∧ 32 ≤ snrmBits.length ∧
    32 ≤ (snrmBare ++ [true]).length ∧ bitRange snrmBits 8 23 = bitRange (snrmBare ++ [true]) 8 23 := by decide +kernel

/-- Window sizes 0, 7 and 8, on an idle and on a running engine. -/
theorem witness_ResetWritesEveryRegister :
    { idle with env := [.reset 3 0] }.env = .reset 3 0 :: [] ∧
    { outstanding with env := [.reset 255 7, .turn] }.env = .reset 255 7 :: [.turn] ∧
    { connecting with env := [.reset 0 8] }.env = .reset 0 8 :: [] := ⟨rfl, rfl, rfl⟩

theorem witness_IdleEngineWaits : atTurn idle = some idle ∧ idle.busy = false ∧ idle.port = [] := by decide +kernel

/-- One word for each outcome, at the lengths 400 and 401 of the LEN check. -/
theorem witness_AcceptanceChecksInOrder :
    (∀ w : BitVec 32, atTurn { idle with port := [w] } = some { idle with port := [w] } ∧ idle.busy = false ∧
      { idle with port := [w] }.port = w :: []) ∧
    cmdOpc 0 = 0 ∧ cmdOpc 7 = 7 ∧ cmdOpc 9 = 1 ∧ cmdRsv 9 ≠ 0 ∧ cmdLen 0x10001 ≠ 0 ∧
    cmdOpc 0x01910004 = 4 ∧ idle.params.maxSduBytes < (cmdLen 0x01910004).toNat ∧
    ¬ idle.params.maxSduBytes < (cmdLen 0x01900004).toNat ∧
    cmdOpc 1 = 1 ∧ cmdOpc 2 = 2 ∧ cmdOpc 3 = 3 ∧ cmdOpc 5 = 5 ∧
    { idle with cfgErr := true, port := [1] }.cfgErr = true ∧ { idle with closed := true, port := [1] }.closed = true :=
  ⟨fun _ => ⟨rfl, rfl, rfl⟩, by decide +kernel⟩

theorem witness_BusyEngineHoldsCommands :
    (∃ t, atTurn { connecting with port := [2], rx := [none] } = some { connecting with port := [2], rx := [none] } ∧
      connecting.busy = true ∧ step { connecting with port := [2], rx := [none] } = .next t) ∧
    { connecting with env := [.offer 2] }.env = .offer 2 :: [] ∧ { idle with env := [.offer 7] }.env = .offer 7 :: [] :=
  ⟨⟨_, rfl, rfl, rfl⟩, rfl, rfl⟩

/-- Indexes 399 and 400 of MAX_SDU_BYTES = 400. -/
theorem witness_SduWriteEffects :
    { connecting with env := [.sduWrite 0 1] }.env = .sduWrite 0 1 :: [] ∧ connecting.busy = true ∧
    idle.busy = false ∧ idle.params.maxSduBytes ≤ 400 ∧ 399 < idle.params.maxSduBytes ∧ memoryWf idle.sdu := by
  decide +kernel

theorem witness_StatusResultConfigLayout :
    { idle with env := [.read .status] }.env = .read .status :: [] ∧
    { idle with env := [.read .result] }.env = .read .result :: [] ∧
    { idle with env := [.read .config] }.env = .read .config :: [] := ⟨rfl, rfl, rfl⟩

theorem witness_WindowXferLayout :
    { idle with env := [.read .window] }.env = .read .window :: [] ∧
    { idle with env := [.read .xfer] }.env = .read .xfer :: [] := ⟨rfl, rfl⟩

theorem witness_IndicationsAccepted : idle.busy = false ∧ idle.cfgErr = false ∧ idle.closed = false := by decide

theorem witness_OneStepCommandsAccepted : idle.busy = false ∧ idle.cfgErr = false ∧ idle.closed = false := by decide

theorem witness_DataReqAccepted :
    idle.busy = false ∧ idle.cfgErr = false ∧ idle.closed = false ∧
    (0 : BitVec 16).toNat ≤ idle.params.maxSduBytes ∧ (400 : BitVec 16).toNat ≤ idle.params.maxSduBytes := by
  decide +kernel

theorem witness_CommandsRefused :
    idle.busy = false ∧ { idle with cfgErr := true }.cfgErr = true ∧ idle.cfgErr = false ∧
    { idle with closed := true }.closed = true ∧ idle.closed = false ∧
    idle.params.maxSduBytes < (401 : BitVec 16).toNat := by decide +kernel

/-- OP and PHASE pairs of every clause; the last three are in no reachable state. -/
theorem witness_CommandsHeldOrUnruled :
    connecting.busy = true ∧ connecting.op ≠ .connResp ∧ connecting.op ≠ .discInd ∧ connecting.op ≠ .close ∧
    connecting.op ≠ .dataReq ∧ disconnecting.busy = true ∧ disconnecting.op ≠ .connInd ∧
    { connecting with phase := .loop }.phase ≠ .wait ∧ { disconnecting with phase := .none }.phase ≠ .wait ∧
    { polling with phase := .wait }.phase ≠ .pollSync ∧ { polling with phase := .wait }.phase ≠ .loop := by
  decide +kernel

/-- An answer for each clause: none, malformed with each type, I, RR, a U-frame of another modifier, the one waited for. -/
theorem witness_ConnIndStep :
    connecting.busy = true ∧ connecting.op = .connInd ∧ connecting.phase = .wait ∧
    (∀ x, (rxAttempt { connecting with rx := [x] }).1 = x) ∧
    receiveFrame 3 none = .retry ∧ receiveFrame 3 (some shortBits) = .malformed 3 none ∧
    receiveFrame 3 (some (iBits.take 17)) = .malformed 3 (some .i) ∧
    receiveFrame 3 (some (pollBits.take 31)) = .malformed 3 (some .s) ∧
    receiveFrame 3 (some (snrmBits.take 18)) = .malformed 3 (some .u) ∧
    receiveFrame 3 (some iBits) = .frame 3 .i 0 [] ∧ receiveFrame 3 (some pollBits) = .frame 3 .s 0x88 [] ∧
    receiveFrame 3 (some discBits) = .frame 3 .u 0xC2 [] ∧ ctrlMod 0xC2 ≠ 1 ∧
    receiveFrame 3 (some snrmBits) = .frame 3 .u 0xC9 [] ∧ ctrlMod 0xC9 = 1 :=
  ⟨rfl, rfl, rfl, fun _ => rfl, by decide +kernel⟩

theorem witness_DiscIndStep :
    disconnecting.busy = true ∧ disconnecting.op = .discInd ∧ disconnecting.phase = .wait ∧
    (∀ x, (rxAttempt { disconnecting with rx := [x] }).1 = x) ∧
    receiveFrame 3 none = .retry ∧ receiveFrame 3 (some shortBits) = .malformed 3 none ∧
    receiveFrame 3 (some (iBits.take 17)) = .malformed 3 (some .i) ∧
    receiveFrame 3 (some (pollBits.take 31)) = .malformed 3 (some .s) ∧
    receiveFrame 3 (some (snrmBits.take 18)) = .malformed 3 (some .u) ∧
    receiveFrame 3 (some iBits) = .frame 3 .i 0 [] ∧ receiveFrame 3 (some pollBits) = .frame 3 .s 0x88 [] ∧
    receiveFrame 3 (some snrmBits) = .frame 3 .u 0xC9 [] ∧ ctrlMod 0xC9 ≠ 2 ∧
    receiveFrame 3 (some discBits) = .frame 3 .u 0xC2 [] ∧ ctrlMod 0xC2 = 2 ∧
    (nextOf (exec .discInd { disconnecting with rx := [none] })).isSome = true :=
  ⟨rfl, rfl, rfl, fun _ => rfl, by decide +kernel⟩

theorem witness_ConnRespStep :
    (startCommand .connResp .none idle).busy = true ∧ (startCommand .connResp .none idle).op = .connResp := by decide

theorem witness_CloseStep :
    (startCommand .close .none idle).busy = true ∧ (startCommand .close .none idle).op = .close := by decide

/-- N(R) = 0 and 7 with P/F = 1; no frame and an RR with P/F = 0. -/
theorem witness_PollSyncStep :
    polling.busy = true ∧ polling.op = .dataReq ∧ polling.phase = .pollSync ∧
    (∀ x, (rxAttempt { polling with rx := [x] }).1 = x) ∧ receiveAck 3 (some pollBits) = some ⟨true, 0⟩ ∧
    receiveAck 3 (some (bitsOf (0b01111110_00000011_10001111_01111110 : BitVec 32))) = some ⟨true, 7⟩ ∧
    receiveAck 3 none = none ∧
    receiveAck 3 (some (bitsOf (0b01111110_00000011_10000111_01111110 : BitVec 32))) = some ⟨false, 7⟩ :=
  ⟨rfl, rfl, rfl, fun _ => rfl, by decide +kernel⟩

theorem witness_LoopCompletes :
    finished.busy = true ∧ finished.op = .dataReq ∧ finished.phase = .loop ∧ finished.fb = [] ∧
    finished.fragNext = finished.fragTotal := by decide +kernel

theorem witness_LoopTransmitsThenAcknowledges :
    looping.busy = true ∧ looping.op = .dataReq ∧ looping.phase = .loop ∧
    ¬ (looping.fb = [] ∧ looping.fragNext = looping.fragTotal) ∧
    (txSubStep (rxAttempt { looping with rx := [none] }).2).toOption.isSome = true ∧
    (txSubStep (rxAttempt { looping with rx := [none], sdu := [] }).2).toOption = none := by decide +kernel

/-- A full window; all sent; off = 0 inside FB; a first transmission with its byte, without it, and with FB full. -/
theorem witness_TransmitSubStep :
    { looping with vs := 4 }.vs = looping.rhs ∧
    (outstanding.vs ≠ outstanding.rhs ∧ windowOffset outstanding = 1 ∧ outstanding.fb.length = 1 ∧
      outstanding.fragTotal.toNat ≤ outstanding.fragNext.toNat) ∧
    (windowOffset { outstanding with vs := 0 } = 0 ∧ { outstanding with vs := 0 }.fb[0]? = some frameA) ∧
    (looping.vs ≠ looping.rhs ∧ looping.fb.length ≤ windowOffset looping ∧
      looping.fragNext.toNat < looping.fragTotal.toNat ∧ memoryRange looping.sdu 0 1 = some [0x41] ∧
      looping.fb.length < looping.w.toNat) ∧
    memoryRange { looping with sdu := [] }.sdu 0 1 = none ∧
    { looping with w := 0, rhs := 4 }.w.toNat ≤ looping.fb.length := by decide +kernel

/-- c = 0, 1, 4 = FB.len and 5 on four outstanding frames. -/
theorem witness_AcknowledgeSubStep :
    ackCount wrapped 6 = 0 ∧ ackCount wrapped 7 = 1 ∧ ackCount wrapped 2 = 4 ∧ wrapped.fb.length = 4 ∧
    ackCount wrapped 3 = 5 := by decide +kernel

theorem witness_SnrmArrives :
    (connecting.busy = true ∧ connecting.op = .connInd ∧ connecting.phase = .wait) ∧
    (disconnecting.busy = true ∧ disconnecting.op = .discInd ∧ disconnecting.phase = .wait) ∧
    (polling.busy = true ∧ polling.op = .dataReq ∧ polling.phase = .pollSync) := by decide +kernel

theorem witness_DiscArrives :
    (disconnecting.busy = true ∧ disconnecting.op = .discInd ∧ disconnecting.phase = .wait) ∧
    (connecting.busy = true ∧ connecting.op = .connInd ∧ connecting.phase = .wait) ∧
    (polling.busy = true ∧ polling.op = .dataReq ∧ polling.phase = .pollSync) := by decide +kernel

/-- UA, and U_OTHER at the modifiers 0, 7 and 31. -/
theorem witness_OtherUFramesArrive :
    (Instr.ua true = .ua true ∧ (6 : BitVec 5) = 6) ∧
    ((Instr.uOther 0 true 0).wellFormed = true ∧ (0 : BitVec 5) = (0 : BitVec 2) ++ (0 : BitVec 3)) ∧
    ((Instr.uOther 0 true 7).wellFormed = true ∧ (7 : BitVec 5) = (0 : BitVec 2) ++ (7 : BitVec 3)) ∧
    ((Instr.uOther 3 true 7).wellFormed = true ∧ (31 : BitVec 5) = (3 : BitVec 2) ++ (7 : BitVec 3)) ∧
    (connecting.busy = true ∧ connecting.op = .connInd ∧ connecting.phase = .wait) ∧
    (disconnecting.busy = true ∧ disconnecting.op = .discInd ∧ disconnecting.phase = .wait) ∧
    (polling.busy = true ∧ polling.op = .dataReq ∧ polling.phase = .pollSync) := by decide +kernel

theorem witness_SFramesAtIndications :
    (connecting.busy = true ∧ connecting.op = .connInd ∧ connecting.phase = .wait) ∧
    (disconnecting.busy = true ∧ disconnecting.op = .discInd ∧ disconnecting.phase = .wait) ∧
    (Instr.srej true 7 = .srej true 7) := by decide +kernel

theorem witness_IFramesArrive :
    (connecting.busy = true ∧ connecting.op = .connInd ∧ connecting.phase = .wait) ∧
    (disconnecting.busy = true ∧ disconnecting.op = .discInd ∧ disconnecting.phase = .wait) ∧
    (polling.busy = true ∧ polling.op = .dataReq ∧ polling.phase = .pollSync) := by decide +kernel

theorem witness_SFramesAtPollSync : polling.busy = true ∧ polling.op = .dataReq ∧ polling.phase = .pollSync := by
  decide +kernel

theorem witness_FramesInLoop :
    outstanding.busy = true ∧ outstanding.op = .dataReq ∧ outstanding.phase = .loop ∧
    ¬ (outstanding.fb = [] ∧ outstanding.fragNext = outstanding.fragTotal) ∧
    (txSubStep outstanding).toOption.isSome = true ∧
    ¬ (looping.fb = [] ∧ looping.fragNext = looping.fragTotal) ∧
    (txSubStep { looping with sdu := [] }).toOption = none := by decide +kernel

theorem witness_NoAttemptNoReception :
    idle.busy = false ∧ (startCommand .connResp .none idle).op = .connResp ∧
    (startCommand .close .none idle).op = .close ∧
    (finished.op = .dataReq ∧ finished.phase = .loop ∧ finished.fb = [] ∧ finished.fragNext = finished.fragTotal) := by
  decide +kernel

/-- No event, a turn, another event; each state that receives and a loop step that does not; then a word at the ready
port, a frame at a receive attempt, a command in OP without one. -/
theorem witness_StepRunsDecodedInstruction :
    (idle.env = [] ∧ { idle with env := [.turn, .offer 1] }.env = .turn :: [.offer 1] ∧
      { idle with env := [.offer 1] }.env = .offer 1 :: [] ∧ Event.offer 1 ≠ .turn) ∧
    (rxDue connecting = true ∧ rxDue disconnecting = true ∧ rxDue polling = true ∧ rxDue outstanding = true ∧
      rxDue finished = false ∧ rxDue idle = false) ∧
    (atTurn { idle with port := [5] } = some { idle with port := [5] } ∧ idle.busy = false ∧
      decodeCommand 5 = .ok .close) ∧
    (atTurn { connecting with env := [.turn], rx := [some snrmBits] } =
        some { connecting with rx := [some snrmBits] } ∧ connecting.busy = true ∧
      rxDue { connecting with rx := [some snrmBits] } = true ∧
      receiveFrame 3 (rxAttempt { connecting with rx := [some snrmBits] }).1 = .frame 3 .u 0xC9 []) ∧
    (atTurn finished = some finished ∧ finished.busy = true ∧ rxDue finished = false ∧
      runningCommand finished = some (.dataReq 1)) := by decide +kernel

/-- Each of the five commands in OP. -/
theorem witness_BusyTurnIsRunningCommandStep :
    (atTurn connecting = some connecting ∧ connecting.busy = true ∧ runningCommand connecting = some .connInd ∧
      connecting.op = .connInd) ∧
    (disconnecting.env = [] ∧ disconnecting.busy = true ∧ disconnecting.op = .discInd) ∧
    (polling.env = [] ∧ polling.busy = true ∧ polling.op = .dataReq) ∧
    ((startCommand .connResp .none idle).env = [] ∧ (startCommand .connResp .none idle).busy = true ∧
      (startCommand .connResp .none idle).op = .connResp) ∧
    ((startCommand .close .none idle).env = [] ∧ (startCommand .close .none idle).busy = true ∧
      (startCommand .close .none idle).op = .close) := by decide +kernel

/-- A listed answer and none; each outcome of Classify; an RR, for ReceiveAck; 15 bits; 16 bits with another address. -/
theorem witness_ForeignFramesActAsNone :
    ({ connecting with rx := [none, some snrmBits] }.rx = none :: [some snrmBits] ∧ connecting.rx = []) ∧
    (classify 5 snrmBits = .notMine ∧ classify 3 shortBits = .malformed 3 none ∧
      classify 3 snrmBits = .frame 3 .u 0xC9 []) ∧
    (receiveFrame 3 (some pollBits) = .frame 3 .s 0x88 [] ∧ ctrlS 0x88 = 0 ∧
      receiveAck 3 (some pollBits) = some ⟨ctrlPF 0x88, ctrlNR 0x88⟩) ∧
    atTurn outstanding = some outstanding ∧ rxDue outstanding = true ∧ (shortBits.take 15).length < 16 ∧
    parseAddress (bitsOf (0b01111110_00000101 : BitVec 16)) ≠ outstanding.stationAddr := by decide +kernel

theorem witness_ExecFrame :
    (∃ t, exec (.dataReq 400) { idle with cmdErr := true } = .next t) ∧ ∃ t, exec (.rr false 1) outstanding = .next t :=
  ⟨⟨_, rfl⟩, ⟨_, rfl⟩⟩

theorem witness_ConnStateTransitions : ∃ t, exec .close (startCommand .close .none idle) = .next t := ⟨_, rfl⟩

/-- An acceptance, a step outside the loop, an acceptance of CONN_IND; then POLL_SYNC, a held DATA_REQ, and one refused
for each of the three causes. -/
theorem witness_WindowAndTransferWriters :
    (∃ t, exec (.dataReq 1) idle = .next t) ∧
    ((∃ t, exec (.snrm true) connecting = .next t) ∧ connecting.op ≠ .connResp ∧ connecting.op ≠ .dataReq ∧
      connecting.busy = true) ∧
    (∃ t, exec .connInd idle = .next t) ∧
    ((∃ t, exec (.dataReq 1) { polling with rx := [none] } = .next t) ∧ polling.busy = true ∧ polling.phase ≠ .loop) ∧
    ((∃ t, exec (.dataReq 1) connecting = .next t) ∧ connecting.op ≠ .dataReq) ∧
    ((∃ t, exec (.dataReq 1) { idle with cfgErr := true } = .next t) ∧ idle.busy = false) ∧
    (∃ t, exec (.dataReq 1) { idle with closed := true } = .next t) ∧
    (∃ t, exec (.dataReq 401) idle = .next t) ∧ idle.params.maxSduBytes < (401 : BitVec 16).toNat :=
  ⟨⟨_, rfl⟩, ⟨⟨_, rfl⟩, by decide, by decide, rfl⟩, ⟨_, rfl⟩, ⟨⟨_, rfl⟩, rfl, by decide⟩, ⟨⟨_, rfl⟩, by decide⟩,
    ⟨⟨_, rfl⟩, rfl⟩, ⟨_, rfl⟩, ⟨_, rfl⟩, by decide +kernel⟩

/-- A completion, and an acceptance on an idle engine whose RESULT_VALID is 1. -/
theorem witness_ResultWrittenAtCompletion :
    (∃ t, exec (.ua true) connecting = .next t) ∧ ∃ t, exec .connInd { idle with resultValid := true } = .next t :=
  ⟨⟨_, rfl⟩, ⟨_, rfl⟩⟩

theorem witness_FailedIndicationFrame :
    ∃ t, connecting.busy = true ∧ connecting.phase = .wait ∧ connecting.op = .connInd ∧
      exec .connInd { connecting with rx := [some discBits] } = .next t ∧ t.busy = false ∧
      t.resCode ≠ .srvSuccessful :=
  ⟨connIndOn (receiveFrame 3 (some discBits)) { connecting with rxDrawn := 1 }, rfl, rfl, rfl, rfl, by decide +kernel,
    by decide +kernel⟩

theorem witness_TxHistoryGrowsByAtMostOne : ∃ t, step { outstanding with vs := 0, rx := [none] } = .next t := ⟨_, rfl⟩

theorem witness_ErrorFlagsStickyUntilReset :
    ∃ t, step { idle with cmdErr := true, cmdErrReason := .len, port := [1] } = .next t ∧
      resetNext { idle with cmdErr := true, cmdErrReason := .len, port := [1] } = false ∧
      resetNext { idle with env := [.reset 3 4] } = true := ⟨_, rfl, rfl, rfl⟩

/-! Witnesses that need the invariant of a concrete state. -/

theorem inv_idle : EngineInv idle :=
  EngineInv.applyReset (s := { idle with tx := [] }) ⟨by decide, by decide⟩ 3 4

theorem inv_connected : EngineInv { idle with connState := .connected } :=
  have h := inv_idle
  ⟨h.params, ⟨h.window.1, h.window.2, h.window.3⟩,
    ⟨h.sequencer.1, h.sequencer.2, h.sequencer.3, h.sequencer.4, fun h' => by cases h'⟩,
    ⟨h.transfer.1, h.transfer.2, h.transfer.3, h.transfer.4, h.transfer.5, h.transfer.6, h.transfer.7⟩,
    h.result, ⟨h.storage.1, h.storage.2⟩, h.cfg, h.reason⟩

theorem inv_polling : EngineInv polling :=
  (inv_connected.sduWrite 0 0x41).dataReqAccept rfl rfl rfl (by decide +kernel)

theorem inv_looping : EngineInv looping := inv_polling.pollSyncOn rfl (some ⟨true, 0⟩)

theorem inv_outstanding : EngineInv outstanding :=
  (inv_looping.txSubStep (t := outstanding) rfl rfl (by decide +kernel)).1

/-- The outstanding frame after a duplicate acknowledgment: VS is at the left edge. -/
theorem inv_goBack : EngineInv { outstanding with vs := 0 } := by
  obtain ⟨t, ht, hi⟩ := inv_outstanding.ackSubStep rfl rfl (some ⟨false, 0⟩)
  have h : ackSubStep (some ⟨false, 0⟩) outstanding = .ok { outstanding with vs := 0 } := by decide +kernel
  rw [ht] at h
  injection h with h
  rw [← h]
  exact hi

theorem inv_closed : EngineInv (closeStep (startCommand .close .none idle)) :=
  (inv_idle.startCommand rfl rfl rfl (by decide) rfl (by decide)).closeStep rfl

theorem witness_ClosedIsFinal :
    ∃ t, EngineInv { closeStep (startCommand .close .none idle) with port := [1] } ∧
      step { closeStep (startCommand .close .none idle) with port := [1] } = .next t ∧
      (closeStep (startCommand .close .none idle)).closed = true ∧
      resetNext { closeStep (startCommand .close .none idle) with port := [1] } = false :=
  ⟨_, inv_closed.of_environment _ [1] _ _ _ _, rfl, rfl, rfl⟩

theorem witness_EveryResetEstablishesInvariant : Booted idle :=
  ⟨3, 4, { idle with tx := [] }, ⟨by decide, by decide⟩, rfl⟩

theorem witness_StepKeepsInvariant :
    ∃ t, EngineInv { outstanding with vs := 0, rx := [none] } ∧
      step { outstanding with vs := 0, rx := [none] } = .next t :=
  ⟨_, inv_goBack.of_environment _ _ [none] _ _ _, rfl⟩

/-- A state that goes on, and one that faults. -/
theorem witness_OnlyUnwrittenSduByteFaults :
    EngineInv outstanding ∧ EngineInv { pollSyncOn (some ⟨true, 0⟩) (dataReqAccept 1 idle) with rx := [none] } ∧
    faultOf (step { pollSyncOn (some ⟨true, 0⟩) (dataReqAccept 1 idle) with rx := [none] }) =
      some .unwrittenSduByte :=
  ⟨inv_outstanding, ((inv_idle.dataReqAccept rfl rfl rfl (by decide +kernel)).pollSyncOn rfl _).of_environment
    _ _ [none] _ _ _, by decide +kernel⟩

/-- A reset state whose host writes a byte and asks for DATA_REQ 1, and whose channel polls. -/
def scripted : State :=
  { idle with env := [.sduWrite 0 0x41], port := [0x00010004], rx := [some pollBits, none] }

theorem reachable_of_run {n : Nat} {s t : State} (hs : Reachable s) (h : Sys2Proof.core.run n s = .next t) :
    Reachable t := by
  induction n generalizing s with
  | zero => injection h with h; rw [← h]; exact hs
  | succ n ih =>
    simp only [Host.Core.run] at h
    split at h
    · rename_i u hu; exact ih (hs.step hu) h
    · cases h
    · cases h

/-- Four steps from that reset: one frame is outstanding, CFG_ERR = 0. -/
theorem witness_ReachableWindowInvariant :
    ∃ t : State, Reachable t ∧ t.fb = [frameA] ∧ t.cfgErr = false := by
  have hs : Reachable scripted :=
    .booted ⟨3, 4, { scripted with tx := [] }, ⟨by decide, by decide⟩, rfl⟩
  exact ⟨_, reachable_of_run (n := 4) hs rfl, by decide +kernel, rfl⟩

theorem witness_ReachableBufferFacts : (∃ t : State, Reachable t ∧ frameA ∈ t.fb) ∧ Reachable idle ∧ idle.busy = false :=
  ⟨by obtain ⟨t, h, hf, -⟩ := witness_ReachableWindowInvariant
      exact ⟨t, h, by rw [hf]; exact List.mem_cons_self⟩,
    .booted witness_EveryResetEstablishesInvariant, rfl⟩

theorem witness_WraparoundCounts : wrapped.w = 4 ∧ wrapped.rhs = 2 := by decide +kernel

/-- W = 4, four frames outstanding, VS = RHS (T-ACK-1's start), and no answer. -/
theorem witness_FullWindowStalls :
    atTurn { wrapped with rx := [none] } = some { wrapped with rx := [none] } ∧ wrapped.busy = true ∧
    wrapped.op = .dataReq ∧ wrapped.phase = .loop ∧ wrapped.fb ≠ [] ∧ wrapped.vs = wrapped.rhs ∧
    receiveAck 3 (rxAttempt { wrapped with rx := [none] }).1 = none := by decide +kernel

theorem witness_GoBackResendsBuffer :
    EngineInv { outstanding with vs := 0, rx := [none] } ∧ outstanding.op = .dataReq ∧ outstanding.phase = .loop ∧
    outstanding.env = [] ∧ (0 : SeqNum) = leftEdge { outstanding with vs := 0, rx := [none] } ∧
    { outstanding with rx := [none] }.rx = List.replicate outstanding.fb.length none ++ [] :=
  ⟨inv_goBack.of_environment _ _ [none] _ _ _, rfl, rfl, rfl, by decide +kernel, rfl⟩

theorem witness_ConnRespCompletesInTwoTurns :
    EngineInv { idle with port := [2] } ∧ idle.env = [] ∧ idle.busy = false ∧ idle.cfgErr = false ∧
    idle.closed = false ∧ { idle with port := [2] }.port = 0x00000002#32 :: [] :=
  ⟨inv_idle.of_environment _ [2] _ _ _ _, rfl, rfl, rfl, rfl, rfl⟩

/-- DATA_REQ 1 polled by RR(3,1,0) and acknowledged by RR(3,0,1). -/
theorem witness_LosslessTransferDeliversSdu :
    EngineInv { polling with rx := [some pollBits, some (bitsOf (0b01111110_00000011_10000001_01111110 : BitVec 32))] } ∧
    polling.op = .dataReq ∧ polling.phase = .pollSync ∧ polling.env = [] ∧
    memoryRange polling.sdu 0 polling.sduLen.toNat = some [0x41] ∧
    { polling with rx := [some pollBits, some (bitsOf (0b01111110_00000011_10000001_01111110 : BitVec 32))] }.rx =
      some (buildFrame 3 (sControl codeRR true 0) []) ::
        (List.range polling.fragTotal.toNat).map
          (fun k => some (buildFrame 3 (sControl codeRR false (polling.vs + BitVec.ofNat 3 (k + 1))) [])) ++ [] :=
  ⟨inv_polling.of_environment _ _ _ _ _ _, rfl, rfl, rfl, by decide +kernel, by decide +kernel⟩

/-- The first and last index of a field, a position inside a string, 24 bits, a listed byte and an index that has none, a
written range and an unwritten one. -/
theorem witness_StringsAndRangesMeanTheirBits :
    (bitsOf (0x81 : Byte))[0]? = some true ∧ (bitsOf (0x81 : Byte))[7]? = some true ∧ 0 < shortBits.length ∧
    (bitRange snrmBits 8 15)[7]? = some true ∧ (bitRange snrmBits 8 15)[8]? = none ∧
    24 ≤ (snrmBits.take 24).length ∧ ctrlOf (snrmBits.take 24) = 0xC9 ∧
    memoryWf polling.sdu ∧ memoryRead polling.sdu 0 = some 0x41 ∧ memoryRead polling.sdu 1 = none ∧
    memoryRange polling.sdu 0 1 = some [0x41] ∧ memoryRange polling.sdu 0 2 = none := by decide +kernel

end Sys2Proof.Tests
end

section
/-! Bit strings, control and command fields, and ranges of the SDU buffer as their bits and bytes (00_scope.md R9,
30_encoding.md R56 to R70, 20_memory.md R44). -/

namespace Sys2Proof

/-! ### Bit strings (R9) -/

/-- Position i of `bits_n(v)` is bit n-1-i of v. -/
theorem bitsOf_getElem? {n : Nat} (v : BitVec n) {i : Nat} (h : i < n) :
    (bitsOf v)[i]? = some (v.getLsbD (n - 1 - i)) := by
  rw [List.getElem?_eq_getElem (by simpa using h), bitsOf_getElem, BitVec.getMsbD_eq_getLsbD]
  simp [h]

/-- The eight bits of a byte, written out. -/
theorem bitsOf_byte (d : BitVec 8) : bitsOf d =
    [d.getLsbD 7, d.getLsbD 6, d.getLsbD 5, d.getLsbD 4, d.getLsbD 3, d.getLsbD 2, d.getLsbD 1, d.getLsbD 0] := by
  simp [bitsOf, List.range_succ, BitVec.getMsbD_eq_getLsbD]

/-- Reading on from an accumulated value shifts that value past the bits still to come. -/
theorem foldl_uint (b : Bits) (acc : Nat) :
    b.foldl (fun acc x => 2 * acc + x.toNat) acc = acc * 2 ^ b.length + uint b := by
  induction b generalizing acc with
  | nil => simp [uint]
  | cons x b ih =>
    have hx : uint (x :: b) = (2 * 0 + x.toNat) * 2 ^ b.length + uint b := ih _
    rw [List.foldl_cons, ih, hx, List.length_cons, pow_succ]
    ring

/-- The first bit weighs 2 to the number of bits behind it. -/
theorem uint_cons (x : Bool) (b : Bits) : uint (x :: b) = x.toNat * 2 ^ b.length + uint b := by
  rw [uint, List.foldl_cons, foldl_uint, Nat.mul_zero, Nat.zero_add]

theorem uint_lt (b : Bits) : uint b < 2 ^ b.length := by
  induction b with
  | nil => decide
  | cons x b ih =>
    have hx : x.toNat * 2 ^ b.length ≤ 1 * 2 ^ b.length := Nat.mul_le_mul_right _ x.toNat_le
    rw [uint_cons, List.length_cons, pow_succ]
    omega

theorem getElem?_eq_bitAt {b : Bits} {i : Nat} (h : i < b.length) : b[i]? = some (bitAt b i) := by
  simp [bitAt, h]

/-- Position k of `b[i..j]` is position i + k of b, up to j. -/
theorem bitRange_getElem? (b : Bits) (i j k : Nat) :
    (bitRange b i j)[k]? = if i + k ≤ j then b[i + k]? else none := by
  have hk : k < j + 1 - i ↔ i + k ≤ j := by omega
  simp [bitRange, List.getElem?_take, hk]

/-! ### Control fields (R59 to R65) and command words (R70) -/

/-- N(S), N(R) and the S code are bit ranges of the control field (R65). -/
theorem toNat_ctrlFields (c : BitVec 8) :
    (ctrlNS c).toNat = c.toNat / 16 % 8 ∧ (ctrlNR c).toNat = c.toNat % 8 ∧ (ctrlS c).toNat = c.toNat / 16 % 4 := by
  simp [ctrlNS, ctrlNR, ctrlS, BitVec.extractLsb'_toNat, Nat.shiftRight_eq_div_pow]

theorem ctrlPF_eq_decide (c : BitVec 8) : ctrlPF c = decide (c.toNat / 8 % 2 = 1) :=
  Nat.testBit_eq_decide_div_mod_eq

/-- A concatenation of fields is a sum: the left field weighs 2 to the width of the right one. -/
theorem toNat_append_eq_add {n m : Nat} (x : BitVec n) (y : BitVec m) :
    (x ++ y).toNat = x.toNat * 2 ^ m + y.toNat := by
  rw [BitVec.toNat_append, ← Nat.shiftLeft_add_eq_or_of_lt y.isLt, Nat.shiftLeft_eq]

/-- `MOD = uint(M1 ++ M2)`: M1 is the field of the S code, M2 that of N(R). -/
theorem toNat_ctrlMod (c : BitVec 8) : (ctrlMod c).toNat = 8 * (c.toNat / 16 % 4) + c.toNat % 8 := by
  obtain ⟨-, hm2, hm1⟩ := toNat_ctrlFields c
  have h : (ctrlMod c).toNat = (ctrlS c).toNat * 2 ^ 3 + (ctrlNR c).toNat := toNat_append_eq_add _ _
  omega

theorem toNat_iControl (ns : SeqNum) (pf : Bool) (nr : SeqNum) :
    (iControl ns pf nr).toNat = 16 * ns.toNat + 8 * pf.toNat + nr.toNat := by
  simp only [iControl, toNat_append_eq_add, BitVec.toNat_ofBool, BitVec.toNat_ofNat]
  omega

theorem toNat_sControl (code : BitVec 2) (pf : Bool) (nr : SeqNum) :
    (sControl code pf nr).toNat = 128 + 16 * code.toNat + 8 * pf.toNat + nr.toNat := by
  simp only [sControl, toNat_append_eq_add, BitVec.toNat_ofBool, BitVec.toNat_ofNat]
  omega

theorem toNat_uControl (mod : BitVec 5) (pf : Bool) :
    (uControl mod pf).toNat = 192 + 16 * (mod.toNat / 8) + 8 * pf.toNat + mod.toNat % 8 := by
  have hmod := mod.isLt
  simp only [uControl, toNat_append_eq_add, BitVec.toNat_ofBool, BitVec.toNat_ofNat, BitVec.extractLsb'_toNat,
    Nat.shiftRight_eq_div_pow]
  omega

theorem toNat_commandFields (w : BitVec 32) :
    (cmdOpc w).toNat = w.toNat % 8 ∧ (cmdRsv w).toNat = w.toNat / 8 % 8192 ∧ (cmdLen w).toNat = w.toNat / 65536 := by
  have hw := w.isLt
  refine ⟨?_, ?_, ?_⟩ <;>
    simp only [cmdOpc, cmdRsv, cmdLen, BitVec.extractLsb'_toNat, Nat.shiftRight_eq_div_pow] <;> omega

namespace Machine

/-- The control field of a string that holds one is not cut to 8 bits. -/
theorem toNat_ctrlOf (b : Bits) : (ctrlOf b).toNat = uint (bitRange b 16 23) := by
  have hl : (bitRange b 16 23).length ≤ 8 := by simp
  have hu : uint (bitRange b 16 23) < 2 ^ 8 := (uint_lt _).trans_le (Nat.pow_le_pow_right (by decide) hl)
  exact Nat.mod_eq_of_lt hu

theorem infoBits_eq_flatMap (ds : List Byte) : infoBits ds = ds.flatMap bitsOf := by
  induction ds with
  | nil => rfl
  | cons d ds ih => rw [infoBits, ih, List.flatMap_cons]

/-! ### The SDU buffer (R44) -/

/-- A byte that is read is listed. -/
theorem mem_of_memoryRead {m : Memory} {i : Nat} {v : Byte} (h : memoryRead m i = some v) : (i, v) ∈ m := by
  induction m with
  | nil => cases h
  | cons x m ih =>
    obtain ⟨a, y⟩ := x
    unfold memoryRead at h
    split at h
    · rename_i ha
      cases h; simp [ha]
    · exact List.mem_cons_of_mem _ (ih h)

/-- In a canonical buffer a listed byte is read: no entry before it has its index. -/
theorem memoryRead_of_mem {m : Memory} (hm : memoryWf m) {i : Nat} {v : Byte} (h : (i, v) ∈ m) :
    memoryRead m i = some v := by
  induction m with
  | nil => cases h
  | cons x m ih =>
    obtain ⟨hx, hm⟩ := List.pairwise_cons.mp hm
    rcases List.mem_cons.mp h with rfl | h
    · simp [memoryRead]
    · have hne : x.1 ≠ i := (hx _ h).ne
      simp [memoryRead, hne, ih hm h]

theorem memoryRead_eq_some_iff {m : Memory} (hm : memoryWf m) (i : Nat) (v : Byte) :
    memoryRead m i = some v ↔ (i, v) ∈ m :=
  ⟨mem_of_memoryRead, memoryRead_of_mem hm⟩

/-- A range has a value exactly when its bytes are written, and then it is these bytes. -/
theorem memoryRange_eq_some_iff (m : Memory) (i k : Nat) (ds : List Byte) :
    memoryRange m i k = some ds ↔ ds.length = k ∧ ∀ j, j < k → memoryRead m (i + j) = ds[j]? := by
  refine ⟨memoryRange_some, fun ⟨hlen, hread⟩ => ?_⟩
  obtain ⟨es, hes⟩ := Option.isSome_iff_exists.mp
    (memoryRange_isSome (m := m) (i := i) (k := k) fun j hj => by simp [hread j hj, hlen, hj])
  obtain ⟨hlen', hread'⟩ := memoryRange_some hes
  have heq : es = ds := List.ext_getElem? fun j => by
    by_cases hj : j < k
    · rw [← hread' j hj, hread j hj]
    · rw [List.getElem?_eq_none (by omega), List.getElem?_eq_none (by omega)]
  rw [hes, heq]

/-- Settles O60: each clause is the lemma above about the string, field or range it speaks of. -/
theorem stringsAndRangesMeanTheirBits : Obligations.StringsAndRangesMeanTheirBits := by
  unfold Obligations.StringsAndRangesMeanTheirBits
  refine ⟨fun _ v => ⟨length_bitsOf v, fun _ => bitsOf_getElem? v⟩, ⟨rfl, uint_cons⟩, fun _ _ => getElem?_eq_bitAt,
    bitRange_getElem?, fun _ _ _ => rfl, fun b _ => toNat_ctrlOf b, fun c => ?_,
    fun ns pf nr code mod => ⟨toNat_iControl ns pf nr, toNat_sControl code pf nr, toNat_uControl mod pf⟩, rfl,
    toNat_commandFields, fun ds => ?_, fun _ => List.pairwise_map.symm, fun _ i v hm => memoryRead_eq_some_iff hm i v,
    memoryRange_eq_some_iff, fun _ _ => ⟨rfl, rfl⟩⟩
  · obtain ⟨hns, hnr, hs⟩ := toNat_ctrlFields c
    exact ⟨hns, ctrlPF_eq_decide c, hnr, hs, toNat_ctrlMod c⟩
  · rw [infoBits_eq_flatMap, funext bitsOf_byte]

end Machine
end Sys2Proof
end

section
/-! Every reading and every execution by the registers it may write: the layouts of the read words (10_state.md R34,
R35), and one inversion of an execution and of a step, from which the frames of the engine's registers follow. -/

namespace Sys2Proof

/-! ### The read words (R34, R35) -/

/-- A bit of a word, from the word's value. -/
theorem getLsbD_of_toNat {n i : Nat} {x : BitVec n} {b : Bool} (h : x.toNat / 2 ^ i % 2 = b.toNat) :
    x.getLsbD i = b := by
  have hbit : x.getLsbD i = decide (x.toNat / 2 ^ i % 2 = 1) := Nat.testBit_eq_decide_div_mod_eq
  rw [hbit, h]
  cases b <;> rfl

/-- A field of a word, from the word's value. -/
theorem extractLsb'_of_toNat {n i k : Nat} {x : BitVec n} {y : BitVec k} (h : x.toNat / 2 ^ i % 2 ^ k = y.toNat) :
    x.extractLsb' i k = y :=
  BitVec.eq_of_toNat_eq (by rw [BitVec.extractLsb'_toNat, Nat.shiftRight_eq_div_pow, h])

namespace Machine

/-- STATUS by the weights of its fields. -/
theorem toNat_statusWord (s : State) : (statusWord s).toNat =
    s.busy.toNat + 2 * s.resultValid.toNat + 4 * s.closed.toNat + 8 * s.cmdErr.toNat + 16 * s.cfgErr.toNat +
      32 * (connCode s.connState).toNat + 128 * (opCode s.op).toNat + 1024 * (phaseCode s.phase).toNat +
      4096 * (reasonCode s.cmdErrReason).toNat := by
  simp only [statusWord, toNat_append_eq_add, BitVec.toNat_ofBool, BitVec.toNat_ofNat]
  omega

/-- RESULT by the weights of its fields. -/
theorem toNat_resultWord (s : State) : (resultWord s).toNat =
    (resCodeCode s.resCode).toNat + 4 * (diagKindCode s.resDiagKind).toNat + 16 * s.resDiag.toNat +
      65536 * s.resValue.toNat := by
  simp only [resultWord, toNat_append_eq_add, BitVec.toNat_ofNat]
  omega

/-- CONFIG by the weights of its fields. -/
theorem toNat_configWord (s : State) : (configWord s).toNat = s.stationAddr.toNat + 256 * s.w.toNat := by
  simp only [configWord, toNat_append_eq_add, BitVec.toNat_ofNat]
  omega

/-- WINDOW by the weights of its fields. -/
theorem toNat_windowWord (s : State) : (windowWord s).toNat =
    s.vs.toNat + 8 * s.rhs.toNat + 64 * (leftEdge s).toNat + 512 * s.vr.toNat + 4096 * (s.fb.length % 8) := by
  simp only [windowWord, toNat_append_eq_add, BitVec.toNat_ofNat]
  omega

/-- XFER by the weights of its fields. -/
theorem toNat_xferWord (s : State) : (xferWord s).toNat =
    s.sduLen.toNat + 65536 * s.fragTotal.toNat + 4294967296 * s.fragNext.toNat := by
  simp only [xferWord, toNat_append_eq_add]
  omega

/-- W mod 8 in the spelling of R20. -/
theorem windowSeq_eq_ofNat (s : State) : windowSeq s = BitVec.ofNat 3 (s.w.toNat % 8) :=
  BitVec.eq_of_toNat_eq (by simp [windowSeq])

/-- A Read event's step. -/
theorem step_read {s : State} {name : ReadName} {es : List Event} (h : s.env = .read name :: es) :
    step s = .next { s with env := es, reads := s.reads ++ [readWord s name] } := by
  unfold step
  rw [h]
  rfl

theorem statusWord_fields (s : State) :
    (statusWord s).getLsbD 0 = s.busy ∧ (statusWord s).getLsbD 1 = s.resultValid ∧
      (statusWord s).getLsbD 2 = s.closed ∧ (statusWord s).getLsbD 3 = s.cmdErr ∧
      (statusWord s).getLsbD 4 = s.cfgErr ∧ (statusWord s).extractLsb' 5 2 = connCode s.connState ∧
      (statusWord s).extractLsb' 7 3 = opCode s.op ∧ (statusWord s).extractLsb' 10 2 = phaseCode s.phase ∧
      (statusWord s).extractLsb' 12 3 = reasonCode s.cmdErrReason ∧ (statusWord s).getLsbD 15 = false := by
  have hw := toNat_statusWord s
  have hbusy := s.busy.toNat_lt
  have hvalid := s.resultValid.toNat_lt
  have hclosed := s.closed.toNat_lt
  have hcmd := s.cmdErr.toNat_lt
  have hcfg := s.cfgErr.toNat_lt
  have hconn := (connCode s.connState).isLt
  have hop := (opCode s.op).isLt
  have hphase := (phaseCode s.phase).isLt
  have hreason := (reasonCode s.cmdErrReason).isLt
  have hrsv : (statusWord s).toNat / 2 ^ 15 % 2 = 0 := by omega
  refine ⟨getLsbD_of_toNat ?_, getLsbD_of_toNat ?_, getLsbD_of_toNat ?_, getLsbD_of_toNat ?_, getLsbD_of_toNat ?_,
    extractLsb'_of_toNat ?_, extractLsb'_of_toNat ?_, extractLsb'_of_toNat ?_, extractLsb'_of_toNat ?_,
    getLsbD_of_toNat hrsv⟩ <;> omega

theorem resultWord_fields (s : State) :
    (resultWord s).extractLsb' 0 2 = resCodeCode s.resCode ∧
      (resultWord s).extractLsb' 2 2 = diagKindCode s.resDiagKind ∧ (resultWord s).extractLsb' 4 5 = s.resDiag ∧
      (resultWord s).extractLsb' 9 7 = 0 ∧ (resultWord s).extractLsb' 16 8 = s.resValue ∧
      (resultWord s).extractLsb' 24 8 = 0 := by
  have hw := toNat_resultWord s
  have hcode := (resCodeCode s.resCode).isLt
  have hkind := (diagKindCode s.resDiagKind).isLt
  have hdiag := s.resDiag.isLt
  have hvalue := s.resValue.isLt
  have hrsv : (0 : BitVec 7).toNat = 0 ∧ (0 : BitVec 8).toNat = 0 := ⟨rfl, rfl⟩
  refine ⟨?_, ?_, ?_, ?_, ?_, ?_⟩ <;> refine extractLsb'_of_toNat ?_ <;> omega

theorem configWord_fields (s : State) :
    (configWord s).extractLsb' 0 8 = s.stationAddr ∧ (configWord s).extractLsb' 8 4 = s.w ∧
      (configWord s).extractLsb' 12 4 = 0 := by
  have hw := toNat_configWord s
  have haddr := s.stationAddr.isLt
  have hsize := s.w.isLt
  have hrsv : (0 : BitVec 4).toNat = 0 := rfl
  refine ⟨?_, ?_, ?_⟩ <;> refine extractLsb'_of_toNat ?_ <;> omega

theorem windowWord_fields (s : State) :
    (windowWord s).extractLsb' 0 3 = s.vs ∧ (windowWord s).extractLsb' 3 3 = s.rhs ∧
      (windowWord s).extractLsb' 6 3 = leftEdge s ∧ (windowWord s).extractLsb' 9 3 = s.vr ∧
      (windowWord s).extractLsb' 12 3 = BitVec.ofNat 3 s.fb.length ∧ (windowWord s).getLsbD 15 = false := by
  have hw := toNat_windowWord s
  have hvs := s.vs.isLt
  have hrhs := s.rhs.isLt
  have hle := (leftEdge s).isLt
  have hvr := s.vr.isLt
  have hlen : (BitVec.ofNat 3 s.fb.length).toNat = s.fb.length % 8 := ofNat3_toNat _
  have hrsv : (windowWord s).toNat / 2 ^ 15 % 2 = 0 := by omega
  refine ⟨?_, ?_, ?_, ?_, ?_, getLsbD_of_toNat hrsv⟩ <;> refine extractLsb'_of_toNat ?_ <;> omega

theorem xferWord_fields (s : State) :
    (xferWord s).extractLsb' 0 16 = s.sduLen ∧ (xferWord s).extractLsb' 16 16 = s.fragTotal ∧
      (xferWord s).extractLsb' 32 16 = s.fragNext := by
  have hw := toNat_xferWord s
  have hlen := s.sduLen.isLt
  have htotal := s.fragTotal.isLt
  have hnext := s.fragNext.isLt
  refine ⟨?_, ?_, ?_⟩ <;> refine extractLsb'_of_toNat ?_ <;> omega

/-- Settles O14: the codes by their definitions, the layouts by the lemma about each word. -/
theorem statusResultConfigLayout : Obligations.StatusResultConfigLayout := by
  unfold Obligations.StatusResultConfigLayout
  refine ⟨by decide, by decide, by decide, by decide, by decide, by decide, by decide, fun s => ?_⟩
  exact ⟨statusWord_fields s, resultWord_fields s, configWord_fields s, ⟨rfl, rfl⟩,
    fun _ => ⟨step_read, step_read, step_read⟩⟩

/-- Settles O15: the layouts of the two words; LE in the window word is `RHS -8 W` (R21). -/
theorem windowXferLayout : Obligations.WindowXferLayout := by
  unfold Obligations.WindowXferLayout
  intro s
  obtain ⟨hvs, hrhs, hle, hvr, hlen, hrsv⟩ := windowWord_fields s
  refine ⟨⟨hvs, hrhs, ?_, hvr, ?_, hrsv⟩, xferWord_fields s, fun _ => ⟨step_read, step_read⟩⟩
  · rw [hle, leftEdge, windowSeq_eq_ofNat]
  · rw [hlen, BitVec.toNat_ofNat]

end Machine
end Sys2Proof
end

section
/-! What an execution and a step may write (10_state.md R16 to R33, 60_exceptions.md R146 to R151), and the frames
that follow. -/

namespace Sys2Proof.Machine

/-! ### The effect of an execution -/

/-- Drawing an answer touches nothing but the channel's fields. -/
theorem eq_of_attempt {s v : State} (hv : v = s ∨ v = (rxAttempt s).2) :
    ∃ rx n, v = { s with rx := rx, rxDrawn := n } := by
  rcases hv with rfl | rfl
  · exact ⟨_, _, rfl⟩
  · unfold rxAttempt
    split <;> exact ⟨_, _, rfl⟩

/-- An indication's action waits, or completes and writes at most CONN_STATE besides (41_connection.md R100, R102). -/
theorem indicationOn_cases (want : BitVec 5) (reached : ConnState) (r : Received) (s : State) :
    indicationOn want reached r s = s ∨
      ∃ c v k d conn, indicationOn want reached r s = complete c v k d { s with connState := conn } := by
  cases r with
  | retry => exact .inl rfl
  | malformed a t => exact .inr ⟨_, _, _, _, s.connState, rfl⟩
  | frame a t ctrl info =>
    cases t with
    | i => exact .inr ⟨_, _, _, _, s.connState, rfl⟩
    | s => exact .inr ⟨_, _, _, _, s.connState, rfl⟩
    | u =>
      unfold indicationOn
      simp only
      split
      · exact .inr ⟨_, _, _, _, reached, rfl⟩
      · exact .inr ⟨_, _, _, _, s.connState, rfl⟩

/-- POLL_SYNC's action writes PHASE at most (43_transfer_engine.md R121). -/
theorem pollSyncOn_eq (a : Option Ack) (s : State) : ∃ phase, pollSyncOn a s = { s with phase := phase } := by
  unfold pollSyncOn
  split <;> exact ⟨_, rfl⟩

/-- A transmit sub-step writes VS, FB, FRAG_NEXT and the TX history at most (R123). -/
theorem txSubStep_eq {s t : State} (h : txSubStep s = .ok t) :
    ∃ vs fb next tx, t = { s with vs := vs, fb := fb, fragNext := next, tx := tx } := by
  rcases txSubStep_cases h with ⟨rfl, -⟩ | ⟨-, -, f, -, rfl⟩ | ⟨-, -, -, bytes, -, -, rfl⟩ <;>
    exact ⟨_, _, _, _, rfl⟩

/-- An acknowledgment sub-step answers a state, and writes VS, RHS and FB at most (R128). -/
theorem ackSubStep_eq (a : Option Ack) (s : State) :
    ∃ vs rhs fb, ackSubStep a s = .ok { s with vs := vs, rhs := rhs, fb := fb } := by
  rcases ackSubStep_cases a s with ⟨h, -⟩ | ⟨x, -, -, h⟩ | ⟨x, -, -, -, h⟩ <;> exact ⟨_, _, _, h⟩

/-- A loop step completes, or writes the window, FRAG_NEXT and the TX history at most (R122). -/
theorem loopStep_eq {a : Option Ack} {s t : State} (h : loopStep a s = .ok t) :
    t = complete .srvSuccessful 0 .none 0 s ∨
      ∃ vs rhs fb next tx, t = { s with vs := vs, rhs := rhs, fb := fb, fragNext := next, tx := tx } := by
  rcases loopStep_cases h with ⟨-, h⟩ | ⟨-, u, hu, ha⟩
  · exact .inl h
  · obtain ⟨vs, fb, next, tx, rfl⟩ := txSubStep_eq hu
    obtain ⟨vs', rhs, fb', he⟩ := ackSubStep_eq a { s with vs := vs, fb := fb, fragNext := next, tx := tx }
    rw [he] at ha
    injection ha with ha
    exact .inr ⟨vs', rhs, fb', next, tx, ha.symm⟩

/-- The states `Executed` lists, by the registers they may differ in: `Executed.effect` is the link. -/
inductive Effect (s : State) : State → Prop where
  | nothing : Effect s s
  | refused (r : Reason) : Effect s (refuse r s)
  | started (op : Op) (phase : Phase) : s.busy = false → s.closed = false → Effect s (startCommand op phase s)
  | accepted (len : BitVec 16) : s.busy = false → s.closed = false → Effect s (dataReqAccept len s)
  | waited (phase : Phase) (rx : List (Option Bits)) (n : Nat) : s.busy = true →
      Effect s { s with phase := phase, rx := rx, rxDrawn := n }
  | completed (c : ResCode) (v : BitVec 8) (k : DiagKind) (d : BitVec 5) (conn : ConnState)
      (rx : List (Option Bits)) (n : Nat) : s.busy = true →
      Effect s (complete c v k d { s with connState := conn, rx := rx, rxDrawn := n })
  | connResp : s.busy = true → s.op = .connResp → Effect s (connRespStep s)
  | close : s.busy = true → Effect s (closeStep s)
  | loop (vs rhs : SeqNum) (fb : List Bits) (next : BitVec 16) (tx : List TxEntry) (rx : List (Option Bits))
      (n : Nat) : s.busy = true → s.op = .dataReq → s.phase = .loop →
      Effect s { s with vs := vs, rhs := rhs, fb := fb, fragNext := next, tx := tx, rx := rx, rxDrawn := n }

theorem effect_indicationOn {s v : State} (hb : s.busy = true) (hv : v = s ∨ v = (rxAttempt s).2) (want : BitVec 5)
    (reached : ConnState) (r : Received) : Effect s (indicationOn want reached r v) := by
  obtain ⟨rx, n, rfl⟩ := eq_of_attempt hv
  rcases indicationOn_cases want reached r { s with rx := rx, rxDrawn := n } with h | ⟨c, x, k, d, conn, h⟩
  · rw [h]; exact .waited s.phase rx n hb
  · rw [h]; exact .completed c x k d conn rx n hb

theorem Executed.effect {s t : State} (h : Executed s t) : Effect s t := by
  cases h with
  | nothing => exact .nothing
  | refused r => exact .refused r
  | started op phase hb _ hcl => exact .started op phase hb hcl
  | accepted len hb _ hcl => exact .accepted len hb hcl
  | connInd v r hb _ _ hv => exact effect_indicationOn hb hv _ _ r
  | discInd v r hb _ _ hv => exact effect_indicationOn hb hv _ _ r
  | connResp hb hop => exact .connResp hb hop
  | close hb => exact .close hb
  | pollSync v a hb _ _ hv =>
    obtain ⟨rx, n, rfl⟩ := eq_of_attempt hv
    obtain ⟨phase, h⟩ := pollSyncOn_eq a { s with rx := rx, rxDrawn := n }
    rw [h]
    exact .waited phase rx n hb
  | loop v _ a hb hop hp hv h =>
    obtain ⟨rx, n, rfl⟩ := eq_of_attempt hv
    rcases loopStep_eq h with rfl | ⟨vs, rhs, fb, next, tx, rfl⟩
    · exact .completed _ _ _ _ s.connState rx n hb
    · exact .loop vs rhs fb next tx rx n hb hop hp

/-! ### What no execution writes -/

/-- The configuration, the SDU buffer and the host's fields are the same, and CMD_ERR is not cleared. -/
structure KeepsHostSide (s t : State) : Prop where
  params : t.params = s.params
  stationAddr : t.stationAddr = s.stationAddr
  w : t.w = s.w
  cfgErr : t.cfgErr = s.cfgErr
  sdu : t.sdu = s.sdu
  port : t.port = s.port
  env : t.env = s.env
  reads : t.reads = s.reads
  cmdErr : s.cmdErr = true → t.cmdErr = true

theorem Effect.keepsHostSide {s t : State} (h : Effect s t) : KeepsHostSide s t := by
  cases h with
  | refused => exact ⟨rfl, rfl, rfl, rfl, rfl, rfl, rfl, rfl, fun _ => rfl⟩
  | nothing | started | accepted | waited | completed | connResp | close | loop =>
    exact ⟨rfl, rfl, rfl, rfl, rfl, rfl, rfl, rfl, id⟩

/-- Settles O41: no effect of an execution writes the host's side. -/
theorem execFrame : Obligations.ExecFrame := by
  unfold Obligations.ExecFrame
  intro i s t h
  obtain ⟨hparams, haddr, hw, hcfg, hsdu, hport, henv, hreads, herr⟩ := (exec_executed h).effect.keepsHostSide
  exact ⟨hparams, haddr, hw, hcfg, fun a => by rw [sduRead, sduRead, hsdu], hport, henv, hreads, herr⟩

/-! ### The window, the transfer registers and the results -/

/-- VS, RHS and FB are written by CONN_RESP and DATA_REQ's loop only (R19, R20, R23). -/
theorem Effect.window_kept {s t : State} (h : Effect s t)
    (hs : ¬ (s.busy = true ∧ (s.op = .connResp ∨ (s.op = .dataReq ∧ s.phase = .loop)))) :
    t.vs = s.vs ∧ t.rhs = s.rhs ∧ t.fb = s.fb := by
  cases h with
  | connResp hb hop => exact absurd ⟨hb, .inl hop⟩ hs
  | loop _ _ _ _ _ _ _ hb hop hp => exact absurd ⟨hb, .inr ⟨hop, hp⟩⟩ hs
  | nothing | refused | started | accepted | waited | completed | close => exact ⟨rfl, rfl, rfl⟩

/-- VR is written by CONN_RESP only (R22). -/
theorem Effect.vr_kept {s t : State} (h : Effect s t) (hs : ¬ (s.busy = true ∧ s.op = .connResp)) : t.vr = s.vr := by
  cases h with
  | connResp hb hop => exact absurd ⟨hb, hop⟩ hs
  | nothing | refused | started | accepted | waited | completed | close | loop => rfl

/-- No execution writes SDU_LEN or FRAG_TOTAL while busy (R28). -/
theorem Effect.sduLen_kept {s t : State} (h : Effect s t) (hb : s.busy = true) :
    t.sduLen = s.sduLen ∧ t.fragTotal = s.fragTotal := by
  cases h with
  | accepted _ hidle => rw [hb] at hidle; cases hidle
  | nothing | refused | started | waited | completed | connResp | close | loop => exact ⟨rfl, rfl⟩

/-- While busy only DATA_REQ's loop writes FRAG_NEXT (R28). -/
theorem Effect.fragNext_kept {s t : State} (h : Effect s t) (hb : s.busy = true)
    (hs : ¬ (s.busy = true ∧ s.op = .dataReq ∧ s.phase = .loop)) : t.fragNext = s.fragNext := by
  cases h with
  | accepted _ hidle => rw [hb] at hidle; cases hidle
  | loop _ _ _ _ _ _ _ _ hop hp => exact absurd ⟨hb, hop, hp⟩ hs
  | nothing | refused | started | waited | completed | connResp | close => rfl

/-- The result registers are written by completion only, of a command that was running (R29, R146). -/
theorem Effect.result_kept_or_completed {s t : State} (h : Effect s t) :
    (t.resCode = s.resCode ∧ t.resValue = s.resValue ∧ t.resDiagKind = s.resDiagKind ∧ t.resDiag = s.resDiag) ∨
    (s.busy = true ∧ t.resultValid = true ∧ t.op = .idle ∧ t.phase = .none ∧ t.busy = false) := by
  cases h with
  | completed _ _ _ _ _ _ _ hb | connResp hb | close hb => exact .inr ⟨hb, rfl, rfl, rfl, rfl⟩
  | nothing | refused | started | accepted | waited | loop => exact .inl ⟨rfl, rfl, rfl, rfl⟩

/-- A frame has no effect on an idle engine (log 11). -/
theorem frameArrives_idle {s : State} (hb : s.busy = false) (c : BitVec 8) : frameArrives c s = .next s := by
  simp [frameArrives, rxDue, hb]

/-- A command's execution on an idle engine is its acceptance or refusal (log 9). -/
theorem runCommand_idle {s : State} (hb : s.busy = false) (op : Op) (accept : State → State)
    (engine : State → StepResult) : runCommand op accept engine s = .next (accept s) := by
  simp [runCommand, hb]

/-- A command's execution while it runs is its engine step (log 9). -/
theorem runCommand_running {s : State} {op : Op} (hb : s.busy = true) (hop : s.op = op) (accept : State → State)
    (engine : State → StepResult) : runCommand op accept engine s = engine s := by
  simp [runCommand, hb, hop]

/-- The acceptance or refusal of a command other than DATA_REQ writes no transfer register. -/
theorem runCommand_started_idle {s : State} (hb : s.busy = false) (op : Op) (phase : Phase)
    (engine : State → StepResult) :
    ∃ t, runCommand op (screenCommand none (startCommand op phase)) engine s = .next t ∧
      t.sduLen = s.sduLen ∧ t.fragTotal = s.fragTotal ∧ t.fragNext = s.fragNext := by
  refine ⟨_, runCommand_idle hb _ _ _, ?_⟩
  rcases screenCommand_cases none (startCommand op phase) s with ⟨r, -, he, -⟩ | ⟨h, -⟩ | ⟨-, -, -, he⟩
  · rw [he]; exact ⟨rfl, rfl, rfl⟩
  · cases h
  · rw [he]; exact ⟨rfl, rfl, rfl⟩

/-- An execution on an idle engine answers a next state; only the acceptance of a DATA_REQ writes the transfer
registers (R28, R118). -/
theorem exec_idle (i : Instr) {s : State} (hb : s.busy = false) :
    ∃ t, exec i s = .next t ∧
      ((t.sduLen = s.sduLen ∧ t.fragTotal = s.fragTotal ∧ t.fragNext = s.fragNext) ∨
        ∃ len, i = .dataReq len ∧ s.cfgErr = false ∧ s.closed = false ∧ len.toNat ≤ s.params.maxSduBytes) := by
  cases i with
  | connInd =>
    exact (runCommand_started_idle hb .connInd .wait connIndStep).imp fun _ => And.imp_right .inl
  | connResp =>
    exact (runCommand_started_idle hb .connResp .none fun u => .next (connRespStep u)).imp fun _ => And.imp_right .inl
  | discInd =>
    exact (runCommand_started_idle hb .discInd .wait discIndStep).imp fun _ => And.imp_right .inl
  | close =>
    exact (runCommand_started_idle hb .close .none fun u => .next (closeStep u)).imp fun _ => And.imp_right .inl
  | dataReq len =>
    refine ⟨_, runCommand_idle hb _ _ _, ?_⟩
    rcases screenCommand_cases (lenCause len s) (dataReqAccept len) s with
      ⟨r, -, he, -⟩ | ⟨hc, -⟩ | ⟨hcfg, hcl, hc, -⟩
    · rw [he]; exact .inl ⟨rfl, rfl, rfl⟩
    · unfold lenCause at hc; split at hc <;> cases hc
    · refine .inr ⟨len, rfl, hcfg, hcl, ?_⟩
      by_contra hlong
      simp [lenCause, Nat.lt_of_not_le hlong] at hc
  | iFrame | rr | rnr | rej | srej | snrm | disc | ua | uOther =>
    exact ⟨s, frameArrives_idle hb _, .inl ⟨rfl, rfl, rfl⟩⟩

/-- Settles O43: the effect of an execution, and on an idle engine the acceptance of a DATA_REQ alone. -/
theorem windowAndTransferWriters : Obligations.WindowAndTransferWriters := by
  unfold Obligations.WindowAndTransferWriters
  intro i s t h
  have he := (exec_executed h).effect
  refine ⟨he.window_kept, he.vr_kept, he.sduLen_kept, fun hs hrefused => ?_⟩
  cases hb : s.busy with
  | true => exact ⟨(he.sduLen_kept hb).1, (he.sduLen_kept hb).2, he.fragNext_kept hb hs⟩
  | false =>
    obtain ⟨u, hu, hkept | ⟨len, rfl, hcfg, hcl, hlen⟩⟩ := exec_idle i hb
    · rw [hu] at h
      injection h with h
      rwa [← h]
    · rcases hrefused with hr | hr | hr | hr | ⟨len', hi, hr⟩
      · rw [hb] at hr; cases hr
      · exact absurd rfl (hr len)
      · rw [hcfg] at hr; cases hr
      · rw [hcl] at hr; cases hr
      · injection hi with hi
        rw [← hi] at hr
        omega

/-- Settles O44: only `complete` writes the result registers. -/
theorem resultWrittenAtCompletion : Obligations.ResultWrittenAtCompletion := by
  unfold Obligations.ResultWrittenAtCompletion
  intro i s t h
  exact (exec_executed h).effect.result_kept_or_completed

/-! ### What a step can do -/

/-- Every next state of a step: an execution at the engine's turn, or one event of the host's. The execution runs with
the turn consumed and, where it took a word, with that word gone from the port. -/
inductive Stepped (s : State) : State → Prop where
  | executed (env : List Event) (port : List (BitVec 32)) (t : State) :
      Executed { s with env := env, port := port } t → Stepped s t
  | offered (word : BitVec 32) (env : List Event) : Stepped s (hostOffer word { s with env := env })
  | sduWritten (i : Nat) (v : Byte) (env : List Event) : Stepped s (sduWrite i v { s with env := env })
  | wordRead (name : ReadName) (env : List Event) : Stepped s (hostRead name { s with env := env })
  | reset (a : BitVec 8) (n : BitVec 4) (env : List Event) : s.env = .reset a n :: env →
      Stepped s (applyReset a n { s with env := env })

/-- Everything a step can do. -/
theorem step_stepped {s t : State} (h : step s = .next t) : Stepped s t := by
  rcases step_cases h with ⟨u, hu, h⟩ | ⟨e, es, he, hne, h⟩
  · rw [atTurn_eq hu] at h
    rcases turn_executed h with ⟨-, hx⟩ | ⟨-, -, rfl⟩ | ⟨-, w, ws, -, hx⟩
    · exact .executed u.env s.port t hx
    · exact .executed u.env s.port _ .nothing
    · exact .executed u.env ws t hx
  · cases e with
    | turn => exact absurd rfl hne
    | offer word => injection h with h; rw [← h]; exact .offered word es
    | sduWrite i v => injection h with h; rw [← h]; exact .sduWritten i v es
    | read name => injection h with h; rw [← h]; exact .wordRead name es
    | reset a n => injection h with h; rw [← h]; exact .reset a n es he

/-- SduWrite writes a byte, or refuses (20_memory.md R44). -/
theorem sduWrite_cases (i : Nat) (v : Byte) (s : State) :
    (∃ r, sduWrite i v s = refuse r s) ∨ ∃ m, sduWrite i v s = { s with sdu := m } := by
  unfold sduWrite
  split
  · exact .inl ⟨_, rfl⟩
  · split
    · exact .inl ⟨_, rfl⟩
    · exact .inr ⟨_, rfl⟩

theorem resetNext_iff (s : State) : resetNext s = true ↔ ∃ a n es, s.env = .reset a n :: es := by
  unfold resetNext
  split
  · rename_i a n es he
    exact ⟨fun _ => ⟨a, n, es, he⟩, fun _ => rfl⟩
  · rename_i hne
    exact ⟨fun h => (by cases h), fun ⟨a, n, es, he⟩ => (hne a n es he).elim⟩

/-- Settles O47: an execution keeps the configuration and a set CMD_ERR, and so does each event but a reset. -/
theorem errorFlagsStickyUntilReset : Obligations.ErrorFlagsStickyUntilReset := by
  unfold Obligations.ErrorFlagsStickyUntilReset
  refine ⟨resetNext_iff, fun s t h hr => ?_⟩
  cases step_stepped h with
  | executed env port _ hx =>
    have hk := hx.effect.keepsHostSide
    exact ⟨hk.cmdErr, hk.cfgErr, hk.stationAddr, hk.w⟩
  | offered | wordRead => exact ⟨id, rfl, rfl, rfl⟩
  | sduWritten i v env =>
    rcases sduWrite_cases i v { s with env := env } with ⟨r, he⟩ | ⟨m, he⟩
    · rw [he]; exact ⟨fun _ => rfl, rfl, rfl, rfl⟩
    · rw [he]; exact ⟨id, rfl, rfl, rfl⟩
  | reset a n env he => cases hr.symm.trans ((resetNext_iff s).mpr ⟨a, n, env, he⟩)

/-- An execution on a closed and idle engine changes nothing or refuses (R104). -/
theorem Effect.of_closed {s t : State} (h : Effect s t) (hb : s.busy = false) (hcl : s.closed = true) :
    t = s ∨ ∃ r, t = refuse r s := by
  cases h with
  | nothing => exact .inl rfl
  | refused r => exact .inr ⟨r, rfl⟩
  | started _ _ _ ho | accepted _ _ ho => rw [hcl] at ho; cases ho
  | waited _ _ _ hbusy | completed _ _ _ _ _ _ _ hbusy | connResp hbusy | close hbusy
  | loop _ _ _ _ _ _ _ hbusy => rw [hb] at hbusy; cases hbusy

/-- Settles O48: the invariant says that a closed engine is idle, and such an engine executes nothing. -/
theorem closedIsFinal : Obligations.ClosedIsFinal := by
  unfold Obligations.ClosedIsFinal
  intro s t hi hcl h hr
  have hb : s.busy = false := by
    rw [hi.sequencer.busy_iff, (hi.sequencer.idle_of_closed hcl).1]
    rfl
  cases step_stepped h with
  | executed env port _ hx =>
    rcases hx.effect.of_closed hb hcl with rfl | ⟨r, rfl⟩ <;> exact ⟨hcl, hb, rfl, rfl, rfl⟩
  | offered | wordRead => exact ⟨hcl, hb, rfl, rfl, rfl⟩
  | sduWritten i v env =>
    rcases sduWrite_cases i v { s with env := env } with ⟨r, he⟩ | ⟨m, he⟩ <;>
      · rw [he]; exact ⟨hcl, hb, rfl, rfl, rfl⟩
  | reset a n env he => cases hr.symm.trans ((resetNext_iff s).mpr ⟨a, n, env, he⟩)

end Sys2Proof.Machine
end

section
/-! The invariant along every run (10_state.md R22 to R33), and the turn of a busy engine as the step of the command
in OP (R26). -/

namespace Sys2Proof.Machine

/-! ### Every step keeps the invariant -/

/-- The work of a transfer is done: nothing is unacknowledged and nothing unsent (43_transfer_engine.md R135). -/
theorem transferDone_iff (s : State) : transferDone s = true ↔ s.fb = [] ∧ s.fragNext = s.fragTotal := by
  simp [transferDone]

theorem EngineInv.of_attempt {s v : State} (h : EngineInv s) (hv : v = s ∨ v = (Machine.rxAttempt s).2) :
    EngineInv v := by
  rcases hv with rfl | rfl
  · exact h
  · exact h.rxAttempt

/-- A loop step keeps the invariant (R122). -/
theorem EngineInv.loopStep {s t : State} (h : EngineInv s) (hop : s.op = .dataReq) (hph : s.phase = .loop)
    {a : Option Ack} (hl : Machine.loopStep a s = .ok t) : EngineInv t := by
  rcases loopStep_cases hl with ⟨hdone, rfl⟩ | ⟨-, u, hu, ha⟩
  · have hopen := (h.open_of_busy (by rw [hop]; decide)).2
    exact h.complete ((transferDone_iff s).mp hdone) (fun hcl => by rw [hopen] at hcl; cases hcl) _ _ _ _ ⟨rfl, rfl⟩
  · obtain ⟨hi, hop', hph'⟩ := h.txSubStep hop hph hu
    obtain ⟨t', ht', hi'⟩ := hi.ackSubStep hop' hph' a
    rw [ht'] at ha
    injection ha with ha
    rwa [← ha]

/-- POLL_SYNC is a phase of DATA_REQ only (R27). -/
theorem op_of_pollSync_fits {op : Op} : phaseFits op .pollSync = true → op = .dataReq := by
  cases op <;> simp [phaseFits]

/-- An indication has the phase WAIT only (R27). -/
theorem phase_wait_of_fits {op : Op} {phase : Phase} (hop : op = .connInd ∨ op = .discInd) :
    phaseFits op phase = true → phase = .wait := by
  rcases hop with rfl | rfl <;> cases phase <;> simp [phaseFits]

/-- DATA_REQ has two phases (R27). -/
theorem phase_of_dataReq_fits {phase : Phase} : phaseFits .dataReq phase = true →
    phase = .pollSync ∨ phase = .loop := by
  cases phase <;> simp [phaseFits]

/-- Every execution keeps the invariant. -/
theorem EngineInv.executed {s t : State} (h : EngineInv s) (hx : Executed s t) : EngineInv t := by
  cases hx with
  | nothing => exact h
  | refused r _ hr => exact h.refuse hr
  | started op phase hb hc hcl hop hd hfits =>
    exact h.startCommand hb hc hcl hop hfits fun hp => hd (op_of_pollSync_fits (hp ▸ hfits))
  | accepted len hb hc hcl hlen => exact h.dataReqAccept hb hc hcl hlen
  | connInd v r _ hop _ hv hr =>
    obtain ⟨rx, n, rfl⟩ := eq_of_attempt hv
    exact (h.of_attempt hv).indicationOn (by simp [hop]) (by simp [hop]) hr _ _
  | discInd v r _ hop _ hv hr =>
    obtain ⟨rx, n, rfl⟩ := eq_of_attempt hv
    exact (h.of_attempt hv).indicationOn (by simp [hop]) (by simp [hop]) hr _ _
  | connResp _ hop => exact h.connRespStep hop
  | close _ hop => exact h.closeStep hop
  | pollSync v a _ hop _ hv =>
    obtain ⟨rx, n, rfl⟩ := eq_of_attempt hv
    exact (h.of_attempt hv).pollSyncOn hop a
  | loop v _ a _ hop hph hv hl =>
    obtain ⟨rx, n, rfl⟩ := eq_of_attempt hv
    exact (h.of_attempt hv).loopStep hop hph hl

/-- Settles O51: an execution keeps the invariant, and so does every event of the host. -/
theorem stepKeepsInvariant : Obligations.StepKeepsInvariant := by
  unfold Obligations.StepKeepsInvariant
  intro s t h ht
  cases step_stepped ht with
  | executed env port _ hx => exact (h.of_environment s.tx port s.rx s.rxDrawn env s.reads).executed hx
  | offered word env => exact h.of_environment s.tx (s.port ++ [word]) s.rx s.rxDrawn env s.reads
  | sduWritten i v env => exact (h.of_environment s.tx s.port s.rx s.rxDrawn env s.reads).sduWrite i v
  | wordRead name env => exact h.of_environment s.tx s.port s.rx s.rxDrawn env _
  | reset a n env _ => exact EngineInv.applyReset (s := { s with env := env }) h.params a n

/-- Settles O50: what a reset leaves does not depend on the state before it, but for the parameters. -/
theorem everyResetEstablishesInvariant : Obligations.EveryResetEstablishesInvariant := by
  unfold Obligations.EveryResetEstablishesInvariant
  rintro s ⟨addr, size, t, hparams, rfl⟩
  exact EngineInv.applyReset hparams addr size

/-- State.reset is what a reset leaves with the inputs of Config (log 1). -/
theorem booted_reset : Booted State.reset :=
  ⟨Config.resetStationAddr, Config.resetWindowSize, { State.reset with tx := [] }, ⟨by decide, by decide⟩, rfl⟩

/-- Settles O49: the state right after reset is one a reset leaves. -/
theorem resetStateSatisfiesInvariant : Obligations.ResetStateSatisfiesInvariant :=
  everyResetEstablishesInvariant _ booted_reset

/-- The invariant holds in every reachable state. -/
theorem Reachable.engineInv {s : State} (h : Reachable s) : EngineInv s := by
  induction h with
  | booted hs => exact everyResetEstablishesInvariant _ hs
  | step _ ht ih => exact stepKeepsInvariant _ _ ih ht

/-- Settles O53: the window part of the invariant. -/
theorem reachableWindowInvariant : Obligations.ReachableWindowInvariant := by
  unfold Obligations.ReachableWindowInvariant
  intro s hs
  obtain ⟨hocc, hoff, hopen⟩ := hs.engineInv.window
  exact ⟨hocc, hoff, hopen⟩

/-! ### The frames FB holds -/

theorem length_infoBits (ds : List Byte) : (infoBits ds).length = 8 * ds.length := by
  induction ds with
  | nil => rfl
  | cons d ds ih => rw [infoBits, List.length_append, length_bitsOf, ih, List.length_cons]; omega

/-- A fragment has at most MAX_INFO_BYTES bytes (43_transfer_engine.md R119). -/
theorem length_le_of_fragmentBytes {s : State} {i : Nat} {bytes : List Byte} (h : fragmentBytes s i = some bytes) :
    bytes.length ≤ 64 := by
  rw [(memoryRange_some h).1]
  exact Nat.min_le_left _ _

/-- A frame of a fragment has at most 32 + 8·64 bits (30_encoding.md R57, R67). -/
theorem EngineInv.length_le_of_mem_fb {s : State} (h : EngineInv s) {f : Bits} (hf : f ∈ s.fb) : f.length ≤ 544 := by
  obtain ⟨k, hk, rfl⟩ := List.mem_iff_getElem.mp hf
  obtain ⟨bytes, hbytes, hframe⟩ := h.transfer.buffer.2 k hk
  rw [List.getElem?_eq_getElem hk] at hframe
  injection hframe with hframe
  have hlen := length_le_of_fragmentBytes hbytes
  rw [hframe, buildI, length_buildFrame, length_infoBits]
  omega

/-- Settles O54: an idle engine has acknowledged all it sent, and FB holds fragments' frames. -/
theorem reachableBufferFacts : Obligations.ReachableBufferFacts := by
  unfold Obligations.ReachableBufferFacts
  intro s hs
  have h := hs.engineInv
  exact ⟨fun hb => (h.fb_nil_of_idle hb).2, fun f => h.length_le_of_mem_fb, h.transfer.vr_zero⟩

/-! ### The engine step of each running command -/

section Running
variable {s : State} (hb : s.busy = true)
include hb

theorem exec_connInd_wait (hop : s.op = .connInd) (hp : s.phase = .wait) :
    exec .connInd s = .next (connIndOn (receiveFrame s.stationAddr (rxAttempt s).1) (rxAttempt s).2) := by
  simp [exec, execConnInd, runCommand_running hb hop, connIndStep, hp]

theorem exec_discInd_wait (hop : s.op = .discInd) (hp : s.phase = .wait) :
    exec .discInd s = .next (discIndOn (receiveFrame s.stationAddr (rxAttempt s).1) (rxAttempt s).2) := by
  simp [exec, execDiscInd, runCommand_running hb hop, discIndStep, hp]

theorem exec_connResp_running (hop : s.op = .connResp) : exec .connResp s = .next (connRespStep s) := by
  simp [exec, execConnResp, runCommand_running hb hop]

theorem exec_close_running (hop : s.op = .close) : exec .close s = .next (closeStep s) := by
  simp [exec, execClose, runCommand_running hb hop]

theorem exec_dataReq_pollSync (hop : s.op = .dataReq) (hp : s.phase = .pollSync) (len : BitVec 16) :
    exec (.dataReq len) s = .next (pollSyncOn (receiveAck s.stationAddr (rxAttempt s).1) (rxAttempt s).2) := by
  simp [exec, execDataReq, runCommand_running hb hop, dataReqStep, hp]

/-- The loop step that finds the work done draws no answer; every other one does (R122). -/
theorem exec_dataReq_loop (hop : s.op = .dataReq) (hp : s.phase = .loop) (len : BitVec 16) :
    exec (.dataReq len) s =
      if transferDone s then .next (complete .srvSuccessful 0 .none 0 s)
      else outcome (loopStep (receiveAck s.stationAddr (rxAttempt s).1) (rxAttempt s).2) := by
  cases hd : transferDone s <;>
    simp [exec, execDataReq, runCommand_running hb hop, dataReqStep, hp, hd, loopStep, outcome]

/-- The turn of a busy engine is the engine step of the command in OP, whatever answers its receive attempt. -/
theorem turn_running {i : Instr} (hi : runningCommand s = some i) : turn s = exec i s := by
  cases hd : rxDue s with
  | false => simp [turn, hb, hd, hi]
  | true =>
    rw [turn_receiving hd]
    obtain ⟨-, ⟨hop, hp⟩ | ⟨hop, hp⟩ | ⟨hop, hp⟩ | ⟨hop, hp, hdone⟩⟩ := rxDue_cases hd <;>
      simp only [runningCommand, hop, Option.some.injEq] at hi <;> subst hi
    · rw [exec_connInd_wait hb hop hp]; simp [onReceived, hop, hp]
    · rw [exec_discInd_wait hb hop hp]; simp [onReceived, hop, hp]
    · rw [exec_dataReq_pollSync hb hop hp]; simp [onReceived, hop, hp, receiveAck]
    · rw [exec_dataReq_loop hb hop hp]; simp [onReceived, hop, hp, hdone, receiveAck]

end Running

/-- Settles O39: the turn of a busy engine, and the command each value of OP stands for. -/
theorem busyTurnIsRunningCommandStep : Obligations.BusyTurnIsRunningCommandStep := by
  unfold Obligations.BusyTurnIsRunningCommandStep
  intro s u hu hb
  have hrun : ∀ i, runningCommand u = some i → step s = exec i u := fun i hi => by
    rw [step_atTurn hu, turn_running hb hi]
  refine ⟨hrun, ?_, ?_, ?_, ?_, ?_⟩ <;> intro hop <;> exact hrun _ (by rw [runningCommand, hop])

/-- The states in which a receive attempt is due, and no others (R42). -/
theorem rxDue_iff (s : State) : rxDue s = true ↔ s.busy = true ∧
    (((s.op = .connInd ∨ s.op = .discInd) ∧ s.phase = .wait) ∨
      (s.op = .dataReq ∧ s.phase = .pollSync) ∨
      (s.op = .dataReq ∧ s.phase = .loop ∧ ¬ (s.fb = [] ∧ s.fragNext = s.fragTotal))) := by
  rw [← transferDone_iff, Bool.not_eq_true]
  constructor
  · intro h
    obtain ⟨hb, ⟨hop, hp⟩ | ⟨hop, hp⟩ | h | h⟩ := rxDue_cases h
    · exact ⟨hb, .inl ⟨.inl hop, hp⟩⟩
    · exact ⟨hb, .inl ⟨.inr hop, hp⟩⟩
    · exact ⟨hb, .inr (.inl h)⟩
    · exact ⟨hb, .inr (.inr h)⟩
  · rintro ⟨hb, ⟨hop | hop, hp⟩ | ⟨hop, hp⟩ | ⟨hop, hp, hd⟩⟩
    · simp [rxDue, hb, hop, hp]
    · simp [rxDue, hb, hop, hp]
    · simp [rxDue, hb, hop, hp]
    · simp [rxDue, hb, hop, hp, hd]

/-- Any event but a turn is not the engine's. -/
theorem atTurn_of_event {s : State} {e : Event} {es : List Event} (he : s.env = e :: es) (hne : e ≠ .turn) :
    atTurn s = none := by
  unfold atTurn
  rw [he]
  cases e with
  | turn => exact absurd rfl hne
  | offer | sduWrite | read | reset => rfl

/-- Settles O38: the three sources of an instruction, in the branches of the engine's turn. -/
theorem stepRunsDecodedInstruction : Obligations.StepRunsDecodedInstruction := by
  unfold Obligations.StepRunsDecodedInstruction
  refine ⟨fun s => ⟨fun he => ?_, fun es he => ?_, fun e es he hne => atTurn_of_event he hne⟩, rxDue_iff,
    fun s u hu => ⟨fun w ws i hb hp hi => ?_, fun a ty c info hb hd hr => ?_, fun i hb _ hi => ?_⟩⟩
  · rw [atTurn, he]
  · rw [atTurn, he]
  · rw [step_atTurn hu, turn_idle_word hb hp, takeWord, hi]
  · simp [step_atTurn hu, turn, hb, hd, takeAnswer, hr]
  · rw [step_atTurn hu, turn_running hb hi]

/-! ### Progress -/

/-- A transmit sub-step answers a state, or its first transmission meets an unwritten byte: FB has an entry to resend
where one is due, and room for a new one while the window is open (R24, R123). -/
theorem txSubStep_progress {s : State} (h : EngineInv s) (hop : s.op ≠ .idle) :
    (∃ t, txSubStep s = .ok t) ∨
    (txSubStep s = .error .unwrittenSduByte ∧ s.fragNext.toNat < s.fragTotal.toNat ∧
      fragmentBytes s s.fragNext.toNat = none) := by
  cases hsend : windowOpen s && (resendDue s || unsentRemain s) with
  | false => exact .inl ⟨s, by simp [txSubStep, hsend]⟩
  | true =>
    rw [Bool.and_eq_true, Bool.or_eq_true] at hsend
    obtain ⟨hopen, hdue⟩ := hsend
    cases hr : resendDue s with
    | true =>
      have hlt : windowOffset s < s.fb.length := of_decide_eq_true hr
      obtain ⟨u, hu⟩ : ∃ u, retransmit (windowOffset s) s = .ok u :=
        ⟨_, retransmit_ok.mpr ⟨_, List.getElem?_eq_getElem hlt, rfl⟩⟩
      exact .inl ⟨{ u with vs := s.vs + 1 }, by simp [txSubStep, hopen, hr, hu]⟩
    | false =>
      have hunsent : unsentRemain s = true := by simpa [hr] using hdue
      cases hbytes : fragmentBytes s s.fragNext.toNat with
      | none =>
        exact .inr ⟨by simp [txSubStep, hopen, hr, hunsent, sendNew, hbytes], of_decide_eq_true hunsent, rfl⟩
      | some bytes =>
        have hroom : s.fb.length < s.w.toNat := by
          have hge : ¬ windowOffset s < s.fb.length := of_decide_eq_false hr
          have hlt := (h.window.openTest (h.open_of_busy hop).1).mp (by simpa [windowOpen] using hopen)
          omega
        obtain ⟨u, hu⟩ : ∃ u, sendNew s = .ok u := ⟨_, sendNew_ok.mpr ⟨bytes, hbytes, hroom, rfl⟩⟩
        exact .inl ⟨{ u with vs := s.vs + 1 }, by simp [txSubStep, hopen, hr, hunsent, hu]⟩

/-- So does a loop step: its acknowledgment always answers a state (R122, R128). -/
theorem loopStep_progress {s : State} (h : EngineInv s) (hop : s.op ≠ .idle) (a : Option Ack) :
    (∃ t, loopStep a s = .ok t) ∨
    (loopStep a s = .error .unwrittenSduByte ∧ s.fragNext.toNat < s.fragTotal.toNat ∧
      fragmentBytes s s.fragNext.toNat = none) := by
  cases hd : transferDone s with
  | true => exact .inl ⟨complete .srvSuccessful 0 .none 0 s, by simp [loopStep, hd]⟩
  | false =>
    rcases txSubStep_progress h hop with ⟨u, hu⟩ | ⟨hu, hmissing⟩
    · obtain ⟨vs, rhs, fb, ha⟩ := ackSubStep_eq a u
      exact .inl ⟨_, by simpa [loopStep, hd, hu] using ha⟩
    · exact .inr ⟨by simp [loopStep, hd, hu], hmissing⟩

/-- The turn of a busy engine answers a state, or the first transmission of a loop step meets an unwritten byte. -/
theorem turn_busy_progress {s : State} (h : EngineInv s) (hb : s.busy = true) :
    (∃ t, turn s = .next t) ∨
    (turn s = .fault .unwrittenSduByte ∧ s.op = .dataReq ∧ s.phase = .loop ∧
      s.fragNext.toNat < s.fragTotal.toNat ∧ fragmentBytes s s.fragNext.toNat = none) := by
  have hfits := h.sequencer.phase_fits
  cases hop : s.op with
  | idle =>
    have hidle := h.sequencer.busy_iff
    rw [hb, hop] at hidle
    cases hidle
  | connInd =>
    rw [turn_running hb (by rw [runningCommand, hop])]
    exact .inl ⟨_, exec_connInd_wait hb hop (phase_wait_of_fits (.inl hop) hfits)⟩
  | discInd =>
    rw [turn_running hb (by rw [runningCommand, hop])]
    exact .inl ⟨_, exec_discInd_wait hb hop (phase_wait_of_fits (.inr hop) hfits)⟩
  | connResp =>
    rw [turn_running hb (by rw [runningCommand, hop])]
    exact .inl ⟨_, exec_connResp_running hb hop⟩
  | close =>
    rw [turn_running hb (by rw [runningCommand, hop])]
    exact .inl ⟨_, exec_close_running hb hop⟩
  | dataReq =>
    rw [turn_running hb (by rw [runningCommand, hop])]
    rw [hop] at hfits
    rcases phase_of_dataReq_fits hfits with hp | hp
    · exact .inl ⟨_, exec_dataReq_pollSync hb hop hp _⟩
    · rw [exec_dataReq_loop hb hop hp]
      cases hd : transferDone s with
      | true => exact .inl ⟨_, rfl⟩
      | false =>
        rcases loopStep_progress h.rxAttempt (by simp [hop]) (receiveAck s.stationAddr (rxAttempt s).1) with
          ⟨t, ht⟩ | ⟨ht, hmissing⟩
        · exact .inl ⟨t, by simp [ht, outcome]⟩
        · exact .inr ⟨by simp [ht, outcome], rfl, hp, by simpa [fragmentBytes] using hmissing⟩

/-- An idle engine's turn answers a state. -/
theorem turn_idle_progress {s : State} (hb : s.busy = false) : ∃ t, turn s = .next t := by
  cases hp : s.port with
  | nil => exact ⟨s, turn_idle_empty hb hp⟩
  | cons w ws =>
    rw [turn_idle_word hb hp]
    unfold takeWord
    cases decodeCommand w with
    | ok i =>
      obtain ⟨t, ht, -⟩ := exec_idle i (s := { s with port := ws }) hb
      exact ⟨t, ht⟩
    | error e => exact ⟨_, rfl⟩

/-- The step of an event of the host answers a state. -/
theorem step_of_event {s : State} (h : atTurn s = none) : ∃ t, step s = .next t := by
  unfold atTurn at h
  unfold step
  cases he : s.env with
  | nil => rw [he] at h; cases h
  | cons e es =>
    rw [he] at h
    cases e with
    | turn => cases h
    | offer | sduWrite | read | reset => exact ⟨_, rfl⟩

/-- Settles O52: an event and an idle engine's turn answer a state, and a busy turn does by the invariant. -/
theorem onlyUnwrittenSduByteFaults : Obligations.OnlyUnwrittenSduByteFaults := by
  unfold Obligations.OnlyUnwrittenSduByteFaults
  intro s h
  cases hu : atTurn s with
  | none => exact .inl (step_of_event hu)
  | some u =>
    obtain ⟨env, rfl⟩ : ∃ env, u = { s with env := env } := ⟨_, atTurn_eq hu⟩
    rw [step_atTurn hu]
    rcases Bool.eq_false_or_eq_true s.busy with hb | hb
    · exact turn_busy_progress (h.of_environment s.tx s.port s.rx s.rxDrawn env s.reads) hb
    · exact .inl (turn_idle_progress hb)

end Sys2Proof.Machine
end

section
/-! The memories and the ports (20_memory.md R41 to R44): the host port, the SDU buffer, the TX history, and what a
receive attempt answers. -/

namespace Sys2Proof.Machine

/-! ### The host port and the SDU buffer (R43, R44) -/

/-- The oldest pending event is the next step (log 5). -/
theorem step_event {s : State} {e : Event} {es : List Event} (h : s.env = e :: es) :
    step s = takeEvent e { s with env := es } := by
  unfold step
  rw [h]

/-- Settles O13: the branches of SduWrite, and the rules of the written buffer. -/
theorem sduWriteEffects : Obligations.SduWriteEffects := by
  unfold Obligations.SduWriteEffects
  intro s i v es he
  rw [step_event he, takeEvent]
  refine ⟨fun hb => ?_, fun hb hi => ?_, fun hb hi => ⟨memoryWrite s.sdu i v, ?_, ?_, ?_, ?_⟩⟩
  · simp [sduWrite, hb, refuse]
  · simp [sduWrite, hb, hi, refuse]
  · simp [sduWrite, hb, Nat.not_le_of_lt hi]
  · exact fun hwf => memoryWf_write hwf i v
  · exact memoryRead_write_same s.sdu i v
  · exact fun j hj => memoryRead_write_other s.sdu v hj

/-! ### What receiving leaves alone -/

/-- An indication's action refuses nothing (41_connection.md R100, R102). -/
theorem indicationOn_errors (want : BitVec 5) (reached : ConnState) (r : Received) (s : State) :
    (indicationOn want reached r s).cmdErr = s.cmdErr ∧
    (indicationOn want reached r s).cmdErrReason = s.cmdErrReason := by
  rcases indicationOn_cases want reached r s with h | ⟨c, v, k, d, conn, h⟩ <;> (rw [h]; exact ⟨rfl, rfl⟩)

/-- It transmits nothing either (R103). -/
theorem indicationOn_tx (want : BitVec 5) (reached : ConnState) (r : Received) (s : State) :
    (indicationOn want reached r s).tx = s.tx := by
  rcases indicationOn_cases want reached r s with h | ⟨c, v, k, d, conn, h⟩
  · rw [h]
  · rw [h]; rfl

/-- A busy engine refuses nothing (R43, R149). -/
theorem Executed.errors_kept {s t : State} (h : Executed s t) (hb : s.busy = true) :
    t.cmdErr = s.cmdErr ∧ t.cmdErrReason = s.cmdErrReason := by
  cases h with
  | refused _ hidle => rw [hb] at hidle; cases hidle
  | nothing | started | accepted | connResp | close => exact ⟨rfl, rfl⟩
  | connInd v r _ _ _ hv | discInd v r _ _ _ hv =>
    obtain ⟨rx, n, rfl⟩ := eq_of_attempt hv
    exact indicationOn_errors _ _ r { s with rx := rx, rxDrawn := n }
  | pollSync v a _ _ _ hv =>
    obtain ⟨rx, n, rfl⟩ := eq_of_attempt hv
    obtain ⟨phase, h⟩ := pollSyncOn_eq a { s with rx := rx, rxDrawn := n }
    rw [h]
    exact ⟨rfl, rfl⟩
  | loop v _ a _ _ _ hv hl =>
    obtain ⟨rx, n, rfl⟩ := eq_of_attempt hv
    rcases loopStep_eq hl with rfl | ⟨vs, rhs, fb, next, tx, rfl⟩ <;> exact ⟨rfl, rfl⟩

/-- Settles O12: a busy turn is an execution on the same port, which refuses nothing; an offer is its event. -/
theorem busyEngineHoldsCommands : Obligations.BusyEngineHoldsCommands := by
  unfold Obligations.BusyEngineHoldsCommands
  refine ⟨fun s u t hu hb ht => ?_, fun s w es he => step_event he⟩
  rw [step_atTurn hu] at ht
  rcases turn_executed ht with ⟨-, hx⟩ | ⟨hidle, -⟩ | ⟨hidle, -⟩
  · exact ⟨hx.effect.keepsHostSide.port, hx.errors_kept hb⟩
  · rw [hb] at hidle; cases hidle
  · rw [hb] at hidle; cases hidle

/-! ### The TX history (R41) -/

/-- t's TX history is that of s, or has one entry more at its end. -/
def TxGrows (s t : State) : Prop := t.tx = s.tx ∨ ∃ e, t.tx = s.tx ++ [e]

/-- A transmit sub-step transmits at most one frame (43_transfer_engine.md R123). -/
theorem txGrows_txSubStep {s t : State} (h : txSubStep s = .ok t) : TxGrows s t := by
  rcases txSubStep_cases h with ⟨rfl, -⟩ | ⟨-, -, f, -, rfl⟩ | ⟨-, -, -, bytes, -, -, rfl⟩
  · exact .inl rfl
  · exact .inr ⟨_, rfl⟩
  · exact .inr ⟨_, rfl⟩

/-- A loop step transmits at most one frame: its acknowledgment transmits none (R122, R128). -/
theorem txGrows_loopStep {a : Option Ack} {s t : State} (h : loopStep a s = .ok t) : TxGrows s t := by
  rcases loopStep_cases h with ⟨-, rfl⟩ | ⟨-, u, hu, ha⟩
  · exact .inl rfl
  · obtain ⟨vs, rhs, fb, he⟩ := ackSubStep_eq a u
    rw [he] at ha
    injection ha with ha
    subst ha
    show TxGrows s u
    exact txGrows_txSubStep hu

/-- An execution appends at most one entry: a UA of CONN_RESP, the marker of CLOSE, or a frame of DATA_REQ's loop. -/
theorem Executed.txGrows {s t : State} (h : Executed s t) : TxGrows s t := by
  cases h with
  | nothing | refused | started | accepted => exact .inl rfl
  | connResp | close => exact .inr ⟨_, rfl⟩
  | connInd v r _ _ _ hv | discInd v r _ _ _ hv =>
    obtain ⟨rx, n, rfl⟩ := eq_of_attempt hv
    exact .inl (indicationOn_tx _ _ r _)
  | pollSync v a _ _ _ hv =>
    obtain ⟨rx, n, rfl⟩ := eq_of_attempt hv
    obtain ⟨phase, h⟩ := pollSyncOn_eq a { s with rx := rx, rxDrawn := n }
    rw [h]
    exact .inl rfl
  | loop v _ a _ _ _ hv hl =>
    obtain ⟨rx, n, rfl⟩ := eq_of_attempt hv
    show TxGrows { s with rx := rx, rxDrawn := n } t
    exact txGrows_loopStep hl

/-- Settles O46: an execution appends at most one entry, a reset its marker, and no other event any. -/
theorem txHistoryGrowsByAtMostOne : Obligations.TxHistoryGrowsByAtMostOne := by
  unfold Obligations.TxHistoryGrowsByAtMostOne
  intro s t h
  cases step_stepped h with
  | executed env port _ hx => exact hx.txGrows
  | offered | wordRead => exact .inl rfl
  | sduWritten i v env =>
    rcases sduWrite_cases i v { s with env := env } with ⟨r, he⟩ | ⟨m, he⟩ <;> (rw [he]; exact .inl rfl)
  | reset => exact .inr ⟨_, rfl⟩

/-! ### What a receive attempt answers (R42, 42_reception_filter.md R111 to R116) -/

/-- A receive attempt with answers listed consumes the first (log 4). -/
theorem rxAttempt_listed {s : State} {x : Option Bits} {xs : List (Option Bits)} (h : s.rx = x :: xs) :
    rxAttempt s = (x, { s with rx := xs, rxDrawn := s.rxDrawn + 1 }) := by
  unfold rxAttempt
  rw [h]

/-- With none listed the answer is the free value (log 4). -/
theorem rxAttempt_unlisted {s : State} (h : s.rx = []) :
    rxAttempt s = (Config.channelAnswer s.rxDrawn, { s with rxDrawn := s.rxDrawn + 1 }) := by
  unfold rxAttempt
  rw [h]

/-- ReceiveAck reports the S-frames with the code of RR, and nothing else (R113, R114). -/
theorem ackOf_eq_some_iff (r : Received) (ack : Ack) : ackOf r = some ack ↔
    ∃ a c info, r = .frame a .s c info ∧ ctrlS c = 0 ∧ ack = ⟨ctrlPF c, ctrlNR c⟩ := by
  cases r with
  | retry | malformed => simp [ackOf]
  | frame a t c info =>
    cases t with
    | i | u => simp [ackOf, isRR]
    | s => simp [ackOf, isRR, codeRR, eq_comm (b := ack)]

/-- A frame too short to hold an address, or with another station's, is NotMine (40_frame_model.md R90). -/
theorem classify_foreign {a : BitVec 8} {b : Bits} (h : b.length < 16 ∨ parseAddress b ≠ a) :
    classify a b = .notMine := by
  by_cases hn : b.length < 16
  · simp [classify, hn]
  · have ha : parseAddress b ≠ a := h.resolve_left hn
    simp [classify, hn, ha]

theorem receiveFrame_notMine {a : BitVec 8} {b : Bits} (h : classify a b = .notMine) :
    receiveFrame a (some b) = .retry := by
  rw [receiveFrame, h]

/-- The channel's answers play no part in whose turn it is (log 5). -/
theorem atTurn_rx {s u : State} (h : atTurn s = some u) (rx : List (Option Bits)) :
    atTurn { s with rx := rx } = some { u with rx := rx } := by
  unfold atTurn at h ⊢
  split at h
  · rename_i he; injection h with h; subst h; simp only [he]
  · rename_i es he; injection h with h; subst h; simp only [he]
  · cases h

/-- Nor in whether a receive attempt is due (R42). -/
theorem rxDue_rx (s : State) (rx : List (Option Bits)) : rxDue { s with rx := rx } = rxDue s := rfl

/-- The step at a receive attempt, by the answer listed for it: only what ReceiveFrame makes of it matters. -/
theorem step_receiving_listed {s u : State} (hu : atTurn s = some u) (hd : rxDue u = true) (x : Option Bits)
    (rest : List (Option Bits)) : step { s with rx := x :: rest } =
      onReceived (receiveFrame u.stationAddr x) { u with rx := rest, rxDrawn := u.rxDrawn + 1 } := by
  rw [step_atTurn (atTurn_rx hu _), turn_receiving (by rw [rxDue_rx, hd]), rxAttempt_listed rfl]

/-- Settles O40: an answer that is not this station's and the answer none are both Retry, and the step reads no more
of either. -/
theorem foreignFramesActAsNone : Obligations.ForeignFramesActAsNone := by
  unfold Obligations.ForeignFramesActAsNone
  refine ⟨fun s x xs => rxAttempt_listed, fun s => rxAttempt_unlisted, fun a => rfl,
    fun a b => ⟨receiveFrame_notMine, fun a' ty h => ?_, fun a' ty c info h => ?_⟩,
    fun a x ack => ackOf_eq_some_iff _ ack, fun s u b rest hu hd hb => ?_⟩
  · rw [receiveFrame, h]
  · rw [receiveFrame, h]
  · rw [step_receiving_listed hu hd, step_receiving_listed hu hd, receiveFrame_notMine (classify_foreign hb)]
    rfl

/-! ### Commands held, and frames not received (R43, R164) -/

/-- A command waits at the port while another runs (R43, log 9). -/
theorem runCommand_held {s : State} {op : Op} (hb : s.busy = true) (hop : s.op ≠ op) (accept : State → State)
    (engine : State → StepResult) : runCommand op accept engine s = .next s := by
  simp [runCommand, hb, hop]

theorem connIndStep_unruled {s : State} (hp : s.phase ≠ .wait) : connIndStep s = .fault .noEngineStep := by
  unfold connIndStep
  split
  · contradiction
  · rfl

theorem discIndStep_unruled {s : State} (hp : s.phase ≠ .wait) : discIndStep s = .fault .noEngineStep := by
  unfold discIndStep
  split
  · contradiction
  · rfl

theorem dataReqStep_unruled {s : State} (hp : s.phase ≠ .pollSync) (hl : s.phase ≠ .loop) :
    dataReqStep s = .fault .noEngineStep := by
  unfold dataReqStep
  split
  · contradiction
  · contradiction
  · rfl

/-- Settles O20: a command is held, or is in OP and its engine step finds no rule. -/
theorem commandsHeldOrUnruled : Obligations.CommandsHeldOrUnruled := by
  unfold Obligations.CommandsHeldOrUnruled
  intro s len hb
  refine ⟨fun hop => ?_, fun hop => ?_, fun hop => ?_, fun hop => ?_, fun hop => ?_, fun hop hp => ?_,
    fun hop hp => ?_, fun hop hp hl => ?_⟩
  · rw [exec, execConnInd, runCommand_held hb hop]
  · rw [exec, execConnResp, runCommand_held hb hop]
  · rw [exec, execDiscInd, runCommand_held hb hop]
  · rw [exec, execClose, runCommand_held hb hop]
  · rw [exec, execDataReq, runCommand_held hb hop]
  · rw [exec, execConnInd, runCommand_running hb hop, connIndStep_unruled hp]
  · rw [exec, execDiscInd, runCommand_running hb hop, discIndStep_unruled hp]
  · rw [exec, execDataReq, runCommand_running hb hop, dataReqStep_unruled hp hl]

/-- A frame has no effect where no receive attempt is due (log 11). -/
theorem frameArrives_not_due {s : State} (hd : rxDue s ≠ true) (c : BitVec 8) : frameArrives c s = .next s := by
  rw [frameArrives, if_neg hd]

/-- Settles O37: in none of the four kinds of state is a receive attempt due. -/
theorem noAttemptNoReception : Obligations.NoAttemptNoReception := by
  unfold Obligations.NoAttemptNoReception
  intro s c h
  rw [exec_decodeControl]
  refine frameArrives_not_due (fun hd => ?_) c
  rw [rxDue_iff] at hd
  rcases h with hb | hop | hop | ⟨hop, hp, hdone⟩
  · simp [hb] at hd
  · simp [hop] at hd
  · simp [hop] at hd
  · simp [hop, hp, hdone] at hd

end Sys2Proof.Machine
end

section
/-! The codes of instructions (30_encoding.md R59 to R72): decoding an encoding and encoding a decoded code, for both
forms, and the conditions under which a command word is none. -/

namespace Sys2Proof

/-! ### Decoding what is encoded -/

/-- Settles O1: the round trip of each instruction, with every operand. -/
theorem decodeEncodeRoundTrip : Obligations.DecodeEncodeRoundTrip := by
  unfold Obligations.DecodeEncodeRoundTrip
  intro i
  cases i with
  | connInd => exact Laws.RoundTrip.connInd
  | connResp => exact Laws.RoundTrip.connResp
  | discInd => exact Laws.RoundTrip.discInd
  | dataReq len => exact Laws.RoundTrip.dataReq len
  | close => exact Laws.RoundTrip.close
  | iFrame ns pf nr => exact Laws.RoundTrip.iFrame ns pf nr
  | rr pf nr => exact Laws.RoundTrip.rr pf nr
  | rnr pf nr => exact Laws.RoundTrip.rnr pf nr
  | rej pf nr => exact Laws.RoundTrip.rej pf nr
  | srej pf nr => exact Laws.RoundTrip.srej pf nr
  | snrm pf => exact Laws.RoundTrip.snrm pf
  | disc pf => exact Laws.RoundTrip.disc pf
  | ua pf => exact Laws.RoundTrip.ua pf
  | uOther m1 pf m2 => exact Laws.RoundTrip.uOther m1 pf m2

/-- A code written out decodes to the well-formed instruction whose code it is. -/
theorem decode_eq_of_encode {c : Code} {i : Instr} (hc : encode i = c) (hi : i.wellFormed = true) :
    decode c = .ok i :=
  hc ▸ decodeEncodeRoundTrip i hi

/-- Settles O4: each word is the code of its instruction. -/
theorem specWordsDecode : Obligations.SpecWordsDecode := by
  unfold Obligations.SpecWordsDecode
  refine ⟨?_, ?_, ?_, ?_, ?_, ?_, ?_, ?_, ?_, ?_, ?_, ?_, ?_, ?_⟩ <;> exact decode_eq_of_encode rfl rfl

/-! ### Encoding what is decoded: control fields (R62, R69) -/

/-- A U_OTHER is well-formed exactly when its modifier has no kind of its own (R64). -/
theorem otherModifier_iff (m1 : BitVec 2) (m2 : BitVec 3) :
    otherModifier m1 m2 = true ↔ m1 ++ m2 ≠ modSNRM ∧ m1 ++ m2 ≠ modDISC ∧ m1 ++ m2 ≠ modUA := by
  revert m1 m2; decide

/-- The kind a control field decodes to is well-formed, and its code is that control field. -/
theorem encode_decodeControl (c : BitVec 8) :
    (decodeControl c).wellFormed = true ∧ encode (decodeControl c) = .control c := by
  unfold decodeControl
  split
  case isTrue h7 => exact ⟨rfl, congrArg Code.control (iControl_of_bits c h7)⟩
  case isFalse h7 =>
  rw [Bool.not_eq_false] at h7
  split
  case isTrue h6 =>
    have hs := sControl_of_bits c h7 h6
    split
    case isTrue h => exact ⟨rfl, congrArg Code.control (h ▸ hs)⟩
    case isFalse h0 =>
    split
    case isTrue h => exact ⟨rfl, congrArg Code.control (h ▸ hs)⟩
    case isFalse h1 =>
    split
    case isTrue h => exact ⟨rfl, congrArg Code.control (h ▸ hs)⟩
    case isFalse h2 => exact ⟨rfl, congrArg Code.control (code_srej h0 h1 h2 ▸ hs)⟩
  case isFalse h6 =>
    rw [Bool.not_eq_false] at h6
    have hu := uControl_of_bits c h7 h6
    split
    case isTrue h => exact ⟨rfl, congrArg Code.control (h ▸ hu)⟩
    case isFalse h1 =>
    split
    case isTrue h => exact ⟨rfl, congrArg Code.control (h ▸ hu)⟩
    case isFalse h2 =>
    split
    case isTrue h => exact ⟨rfl, congrArg Code.control (h ▸ hu)⟩
    case isFalse h6 => exact ⟨(otherModifier_iff _ _).mpr ⟨h1, h2, h6⟩, congrArg Code.control hu⟩

/-- Settles O2: the control field of a decoded kind, and the encoder's own equations with the codes written out. -/
theorem controlFieldsAllDecode : Obligations.ControlFieldsAllDecode := by
  unfold Obligations.ControlFieldsAllDecode
  exact ⟨encode_decodeControl, fun _ _ _ => rfl, fun _ _ => ⟨rfl, rfl, rfl, rfl⟩, fun _ => ⟨rfl, rfl, rfl⟩,
    fun _ _ _ => rfl⟩

/-! ### Command words (R70 to R72) -/

/-- A word whose reserved bits are 0 is made of its opcode and its length. -/
theorem commandWord_of_fields {w : BitVec 32} (hrsv : cmdRsv w = 0) : commandWord (cmdOpc w) (cmdLen w) = w := by
  obtain ⟨hopc, hmid, hlen⟩ := toNat_commandFields w
  have hzero : (cmdRsv w).toNat = 0 := by rw [hrsv]; rfl
  refine BitVec.eq_of_toNat_eq ?_
  rw [toNat_commandWord]
  omega

/-- DATA_REQ's word: LEN in bits 31:16, the opcode below (R71). -/
theorem commandWord_dataReq (len : BitVec 16) : commandWord 4 len = len ++ 4#16 := by
  refine BitVec.eq_of_toNat_eq ?_
  rw [toNat_commandWord, toNat_append_eq_add]
  rfl

theorem opcode_cases {opc : BitVec 3} (h : ¬ (opc = 0 ∨ opc = 6 ∨ opc = 7)) :
    opc = 1 ∨ opc = 2 ∨ opc = 3 ∨ opc = 4 ∨ opc = 5 := by
  revert opc; decide

/-- OPC names no command (R71). -/
abbrev ReservedOpcode (w : BitVec 32) : Prop := cmdOpc w = 0 ∨ cmdOpc w = 6 ∨ cmdOpc w = 7

/-- A bit that must be 0 is 1 (R70). -/
abbrev ReservedBits (w : BitVec 32) : Prop := cmdRsv w ≠ 0 ∨ (cmdOpc w ≠ 4 ∧ cmdLen w ≠ 0)

theorem decodeCommand_reservedOpcode {w : BitVec 32} (ho : ReservedOpcode w) :
    decodeCommand w = .error .opcode := by
  simp only [decodeCommand, if_pos ho]

theorem decodeCommand_reservedBits {w : BitVec 32} (ho : ¬ ReservedOpcode w) (hb : ReservedBits w) :
    decodeCommand w = .error .rsvBits := by
  simp only [decodeCommand, if_neg ho, if_pos hb]

/-- The command of a word that passes both checks (R71). -/
theorem decodeCommand_accepted {w : BitVec 32} (ho : ¬ ReservedOpcode w) (hb : ¬ ReservedBits w) :
    (cmdOpc w = 1 ∧ decodeCommand w = .ok .connInd) ∨ (cmdOpc w = 2 ∧ decodeCommand w = .ok .connResp) ∨
    (cmdOpc w = 3 ∧ decodeCommand w = .ok .discInd) ∨
    (cmdOpc w = 4 ∧ decodeCommand w = .ok (.dataReq (cmdLen w))) ∨
    (cmdOpc w = 5 ∧ decodeCommand w = .ok .close) := by
  simp only [decodeCommand, if_neg ho, if_neg hb]
  rcases opcode_cases ho with h | h | h | h | h <;> simp [h]

/-- A word that passes both checks is its command's code. -/
theorem encode_decodeCommand {w : BitVec 32} (ho : ¬ ReservedOpcode w) (hb : ¬ ReservedBits w) :
    ∃ i, decodeCommand w = .ok i ∧ encode i = .command w := by
  obtain ⟨hrsv, hlen⟩ : cmdRsv w = 0 ∧ (cmdOpc w ≠ 4 → cmdLen w = 0) := by simpa using hb
  have hw := commandWord_of_fields hrsv
  rcases decodeCommand_accepted ho hb with ⟨h, hi⟩ | ⟨h, hi⟩ | ⟨h, hi⟩ | ⟨h, hi⟩ | ⟨h, hi⟩ <;>
    rw [h] at hw hlen
  · exact ⟨_, hi, congrArg Code.command (hlen (by decide) ▸ hw)⟩
  · exact ⟨_, hi, congrArg Code.command (hlen (by decide) ▸ hw)⟩
  · exact ⟨_, hi, congrArg Code.command (hlen (by decide) ▸ hw)⟩
  · exact ⟨_, hi, congrArg Code.command hw⟩
  · exact ⟨_, hi, congrArg Code.command (hlen (by decide) ▸ hw)⟩

/-- Settles O3: a word is rejected for its opcode, or for its bits, or is a command's code. -/
theorem commandDecodeRejectsReserved : Obligations.CommandDecodeRejectsReserved := by
  unfold Obligations.CommandDecodeRejectsReserved
  intro w
  have hcode : encode .connInd = .command 1 ∧ encode .connResp = .command 2 ∧ encode .discInd = .command 3 ∧
      (∀ len : BitVec 16, encode (.dataReq len) = .command (len ++ 4#16)) ∧ encode .close = .command 5 :=
    ⟨rfl, rfl, rfl, fun len => congrArg Code.command (commandWord_dataReq len), rfl⟩
  by_cases ho : ReservedOpcode w
  · have he := decodeCommand_reservedOpcode ho
    exact ⟨iff_of_true he ho, iff_of_false (by simp [he]) fun h => h.1 ho, fun i hi => by simp [he] at hi, hcode⟩
  by_cases hb : ReservedBits w
  · have he := decodeCommand_reservedBits ho hb
    exact ⟨iff_of_false (by simp [he]) ho, iff_of_true he ⟨ho, hb⟩, fun i hi => by simp [he] at hi, hcode⟩
  · obtain ⟨i, he, hi⟩ := encode_decodeCommand ho hb
    refine ⟨iff_of_false (by simp [he]) ho, iff_of_false (by simp [he]) fun h => hb h.2, fun j hj => ?_, hcode⟩
    cases he.symm.trans hj
    exact hi

end Sys2Proof
end

section
/-! The acceptance of a command on an idle engine: the checks and their order, what each command starts (30_encoding.md
R72), and CONN_RESP from its word at the port to its completion (41_connection.md R101). -/

namespace Sys2Proof.Machine

/-! ### The checks (R72) -/

/-- An engine that is neither misconfigured nor closed starts a command in whose word no cause was found. -/
theorem screenCommand_start {s : State} (hc : s.cfgErr = false) (hcl : s.closed = false) (start : State → State) :
    screenCommand none start s = start s := by
  simp [screenCommand, hc, hcl]

/-! ### Each command on an idle engine (log 9) -/

section Idle
variable {s : State} (hb : s.busy = false)
include hb

theorem exec_connInd_idle : exec .connInd s = .next (screenCommand none (startCommand .connInd .wait) s) :=
  runCommand_idle hb _ _ _

theorem exec_connResp_idle : exec .connResp s = .next (screenCommand none (startCommand .connResp .none) s) :=
  runCommand_idle hb .connResp _ fun t => .next (connRespStep t)

theorem exec_discInd_idle : exec .discInd s = .next (screenCommand none (startCommand .discInd .wait) s) :=
  runCommand_idle hb _ _ _

theorem exec_dataReq_idle (len : BitVec 16) :
    exec (.dataReq len) s = .next (screenCommand (lenCause len s) (dataReqAccept len) s) :=
  runCommand_idle hb _ _ _

theorem exec_close_idle : exec .close s = .next (screenCommand none (startCommand .close .none) s) :=
  runCommand_idle hb .close _ fun t => .next (closeStep t)

end Idle

/-- Settles O17: an open engine starts either command, and neither has a phase (R27). -/
theorem oneStepCommandsAccepted : Obligations.OneStepCommandsAccepted := by
  unfold Obligations.OneStepCommandsAccepted
  intro s hb hc hcl
  rw [exec_connResp_idle hb, exec_close_idle hb, screenCommand_start hc hcl, screenCommand_start hc hcl]
  exact ⟨rfl, rfl⟩

/-! ### A word at the ready port -/

theorem takeWord_ok {w : BitVec 32} {i : Instr} (h : decodeCommand w = .ok i) (s : State) :
    takeWord w s = exec i s := by
  rw [takeWord, h]

theorem takeWord_error {w : BitVec 32} {e : Reject} (h : decodeCommand w = .error e) (s : State) :
    takeWord w s = .next (screenCommand (some (rejectReason e)) id s) := by
  rw [takeWord, h]

/-- What an idle engine does with a word at its port: the checks of R72 in their order, then the command's start
(`takeWord_idle` is the link). -/
def acceptWord (w : BitVec 32) (s : State) : State :=
  if s.cfgErr = true then refuse .cfg s
  else if s.closed = true then refuse .closed s
  else if ReservedOpcode w then refuse .opcode s
  else if ReservedBits w then refuse .rsvBits s
  else if cmdOpc w = 4 ∧ s.params.maxSduBytes < (cmdLen w).toNat then refuse .len s
  else if cmdOpc w = 1 then startCommand .connInd .wait s
  else if cmdOpc w = 2 then startCommand .connResp .none s
  else if cmdOpc w = 3 then startCommand .discInd .wait s
  else if cmdOpc w = 4 then dataReqAccept (cmdLen w) s
  else startCommand .close .none s

/-- Rejected or accepted by the decoder, a word passes the engine's own two checks first (R72). -/
theorem takeWord_idle {s : State} (hb : s.busy = false) (w : BitVec 32) :
    takeWord w s = .next (acceptWord w s) := by
  by_cases ho : ReservedOpcode w
  · rw [takeWord_error (decodeCommand_reservedOpcode ho)]
    simp only [acceptWord, screenCommand, if_pos ho, rejectReason]
  by_cases hr : ReservedBits w
  · rw [takeWord_error (decodeCommand_reservedBits ho hr)]
    simp only [acceptWord, screenCommand, if_neg ho, if_pos hr, rejectReason]
  simp only [acceptWord, if_neg ho, if_neg hr]
  rcases decodeCommand_accepted ho hr with ⟨h, hi⟩ | ⟨h, hi⟩ | ⟨h, hi⟩ | ⟨h, hi⟩ | ⟨h, hi⟩ <;>
    rw [takeWord_ok hi, h]
  · rw [exec_connInd_idle hb]; rfl
  · rw [exec_connResp_idle hb]; rfl
  · rw [exec_discInd_idle hb]; rfl
  · rw [exec_dataReq_idle hb]
    by_cases hlen : s.params.maxSduBytes < (cmdLen w).toNat <;> simp [screenCommand, lenCause, hlen]
  · rw [exec_close_idle hb]; rfl

/-- Settles O11: `acceptWord` with the registers it writes named. -/
theorem acceptanceChecksInOrder : Obligations.AcceptanceChecksInOrder := by
  unfold Obligations.AcceptanceChecksInOrder
  intro s u w ws hu hb hp
  rw [step_atTurn hu, turn_idle_word hb hp, takeWord_idle (s := { u with port := ws }) hb]
  rfl

/-! ### CONN_RESP from word to result (R101) -/

/-- An engine with no event pending takes its turn (log 5). -/
theorem step_no_event {s : State} (he : s.env = []) : step s = turn s :=
  step_atTurn (by rw [atTurn, he])

/-- The first turn of CONN_RESP: its word is taken and the command started. -/
theorem step_connResp_word {s : State} {ws : List (BitVec 32)} (he : s.env = []) (hb : s.busy = false)
    (hc : s.cfgErr = false) (hcl : s.closed = false) (hp : s.port = 0x00000002#32 :: ws) :
    step s = .next (startCommand .connResp .none { s with port := ws }) := by
  have hi : decodeCommand 0x00000002#32 = .ok .connResp := rfl
  rw [step_no_event he, turn_idle_word hb hp, takeWord_ok hi, exec_connResp_idle (s := { s with port := ws }) hb,
    screenCommand_start (s := { s with port := ws }) hc hcl]

/-- Its second turn: the engine step. -/
theorem step_connResp_running {s : State} (he : s.env = []) (hb : s.busy = true) (hop : s.op = .connResp) :
    step s = .next (connRespStep s) := by
  rw [step_no_event he, turn_running hb (by rw [runningCommand, hop]), exec_connResp_running hb hop]

/-- Two steps of a run, one after the other. -/
theorem core_run_two {s u t : State} (h1 : step s = .next u) (h2 : step u = .next t) : core.run 2 s = .next t := by
  simp [Host.Core.run, core, h1, h2]

/-- CONN_RESP puts the left edge at 0: RHS becomes W mod 8 (R101, 10_state.md R21). -/
theorem leftEdge_connRespStep (s : State) : leftEdge (connRespStep s) = 0 := by
  show windowSeq s - windowSeq s = 0
  exact BitVec.sub_self _

/-- Settles O58: the acceptance, then the engine step. -/
theorem connRespCompletesInTwoTurns : Obligations.ConnRespCompletesInTwoTurns := by
  unfold Obligations.ConnRespCompletesInTwoTurns
  intro s ws _ he hb hc hcl hp
  exact ⟨_, core_run_two (step_connResp_word he hb hc hcl hp) (step_connResp_running he rfl rfl), rfl, rfl, rfl, rfl,
    rfl, rfl, rfl, rfl, leftEdge_connRespStep _, rfl⟩

end Sys2Proof.Machine
end

section
/-! S-frames and U-frames by the command and phase that receive them (30_encoding.md R63, R64, R69, 41_connection.md
R100, R102, 43_transfer_engine.md R121). -/

namespace Sys2Proof.Machine

section Receiving
variable {s : State} (hb : s.busy = true)
include hb

/-- A frame at either indication is that indication's action on it (R100, R102). -/
theorem frameArrives_indication (hop : s.op = .connInd ∨ s.op = .discInd) (hp : s.phase = .wait) (c : BitVec 8) :
    ∃ want reached, (want = modSNRM ∨ want = modDISC) ∧
      frameArrives c s = .next (indicationOn want reached (.frame s.stationAddr (ctrlType c) c []) s) := by
  have hd : rxDue s = true := (rxDue_iff s).mpr ⟨hb, .inl ⟨hop, hp⟩⟩
  rw [frameArrives, if_pos hd, onReceived]
  rcases hop with hop | hop <;> rw [hop, hp]
  · exact ⟨modSNRM, .awaitingResponse, .inl rfl, rfl⟩
  · exact ⟨modDISC, .disconnected, .inr rfl, rfl⟩

/-- An S-frame at either indication completes it with type S as the diagnostic. -/
theorem sFrame_at_indication (hop : s.op = .connInd ∨ s.op = .discInd) (hp : s.phase = .wait) (code : BitVec 2)
    (pf : Bool) (nr : SeqNum) : frameArrives (sControl code pf nr) s =
      .next (complete .unexpectedFrameReceived s.stationAddr .type 1 s) := by
  obtain ⟨want, reached, -, h⟩ := frameArrives_indication hb hop hp (sControl code pf nr)
  rw [h, ctrlType_sControl]
  rfl

/-- A U-frame neither indication waits for completes it with the modifier as the diagnostic. -/
theorem uFrame_at_indication (hop : s.op = .connInd ∨ s.op = .discInd) (hp : s.phase = .wait) {mod : BitVec 5}
    (hsnrm : mod ≠ modSNRM) (hdisc : mod ≠ modDISC) (pf : Bool) : frameArrives (uControl mod pf) s =
      .next (complete .unexpectedUFrameReceived s.stationAddr .mod mod s) := by
  obtain ⟨want, reached, hw, h⟩ := frameArrives_indication hb hop hp (uControl mod pf)
  have hne : mod ≠ want := by rcases hw with rfl | rfl <;> assumption
  rw [h, ctrlType_uControl, indicationOn, ctrlMod_uControl, if_neg hne]

/-- A U-frame acknowledges nothing, so POLL_SYNC discards it (R114, R121). -/
theorem uFrame_at_pollSync (hop : s.op = .dataReq) (hp : s.phase = .pollSync) (mod : BitVec 5) (pf : Bool) :
    frameArrives (uControl mod pf) s = .next s := by
  have hd : rxDue s = true := (rxDue_iff s).mpr ⟨hb, .inr (.inl ⟨hop, hp⟩)⟩
  rw [frameArrives, if_pos hd, onReceived, hop, hp, ctrlType_uControl]
  rfl

end Receiving

/-- Settles O33: the four kinds are the four S codes. -/
theorem sFramesAtIndications : Obligations.SFramesAtIndications := by
  unfold Obligations.SFramesAtIndications
  intro s i pf nr hi hb hop hp
  rcases hi with rfl | rfl | rfl | rfl <;> exact sFrame_at_indication hb hop hp _ pf nr

/-- Settles O32: the modifier of a UA, and that of a well-formed U_OTHER, is neither SNRM's nor DISC's. -/
theorem otherUFramesArrive : Obligations.OtherUFramesArrive := by
  unfold Obligations.OtherUFramesArrive
  intro s i mod hi hb
  obtain ⟨pf, hexec, hsnrm, hdisc⟩ :
      ∃ pf, exec i s = frameArrives (uControl mod pf) s ∧ mod ≠ modSNRM ∧ mod ≠ modDISC := by
    rcases hi with ⟨pf, rfl, rfl⟩ | ⟨m1, pf, m2, rfl, hwf, rfl⟩
    · exact ⟨pf, rfl, by decide, by decide⟩
    · obtain ⟨hsnrm, hdisc, -⟩ := (otherModifier_iff m1 m2).mp hwf
      exact ⟨pf, rfl, hsnrm, hdisc⟩
  rw [hexec]
  exact ⟨fun hop hp => uFrame_at_indication hb hop hp hsnrm hdisc pf,
    fun hop hp => uFrame_at_pollSync hb hop hp mod pf⟩

end Sys2Proof.Machine
end

section
/-! The frame model (40_frame_model.md R81 to R92): bit strings cut and joined, the fields the parsers read, the
outcomes of Classify, and what of an answer an engine step does not read. -/

namespace Sys2Proof

/-! ### Bit strings cut and joined (00_scope.md R9) -/

/-- The bits of a concatenation of fields are the bits of the fields, the left field first. -/
theorem bitsOf_append {n m : Nat} (x : BitVec n) (y : BitVec m) : bitsOf (x ++ y) = bitsOf x ++ bitsOf y := by
  refine List.ext_getElem (by simp) fun i _ _ => ?_
  simp only [bitsOf_getElem, BitVec.getMsbD_append, List.getElem_append, length_bitsOf]
  by_cases hi : i < n
  · simp [hi]
  · simp [hi, Nat.le_of_not_lt hi]

theorem bitsOf_ofBool (p : Bool) : bitsOf (BitVec.ofBool p) = [p] := by cases p <;> rfl

theorem bitsOf_three (x : BitVec 3) : bitsOf x = [x.getLsbD 2, x.getLsbD 1, x.getLsbD 0] := by
  simp [bitsOf, List.range_succ, BitVec.getMsbD_eq_getLsbD]

/-- The left string weighs 2 to the length of the right one. -/
theorem uint_append (x y : Bits) : uint (x ++ y) = uint x * 2 ^ y.length + uint y := by
  rw [uint, List.foldl_append, foldl_uint]
  rfl

/-- A bit string that fits a field is not cut by it. -/
theorem toNat_ofNat_uint {n : Nat} {x : Bits} (h : x.length ≤ n) : (BitVec.ofNat n (uint x)).toNat = uint x :=
  Nat.mod_eq_of_lt ((uint_lt x).trans_le (Nat.pow_le_pow_right (by decide) h))

/-- A range is cut behind any of its positions. -/
theorem bitRange_split (b : Bits) {i j k : Nat} (hij : i ≤ j + 1) (hjk : j ≤ k) :
    bitRange b i k = bitRange b i j ++ bitRange b (j + 1) k := by
  have hlen : k + 1 - i = (j + 1 - i) + (k + 1 - (j + 1)) := by omega
  have hpos : i + (j + 1 - i) = j + 1 := by omega
  rw [bitRange, hlen, List.take_add, List.drop_drop, hpos]
  rfl

/-- A range of a range is a range of the string. -/
theorem bitRange_bitRange (b : Bits) {i j k l : Nat} (h : i + l ≤ j) :
    bitRange (bitRange b i j) k l = bitRange b (i + k) (i + l) := by
  have hlen : i + l + 1 - (i + k) = min (l + 1 - k) (j + 1 - i - k) := by omega
  rw [bitRange, bitRange, List.drop_take, List.drop_drop, List.take_take, ← hlen]
  rfl

theorem bitRange_single {b : Bits} {i : Nat} (h : i < b.length) : bitRange b i i = [bitAt b i] := by
  rw [bitRange, Nat.add_sub_cancel_left, List.drop_eq_getElem_cons h, bitAt, List.getD_eq_getElem _ _ h]
  rfl

/-! ### The control field of each format, bit for bit (30_encoding.md R59, R61) -/

theorem bitsOf_uControl (mod : BitVec 5) (pf : Bool) : bitsOf (uControl mod pf) =
    [true, true] ++ bitsOf (mod.extractLsb' 3 2) ++ [pf] ++ bitsOf (mod.extractLsb' 0 3) := by
  have h : bitsOf (uControl mod pf) =
      bitsOf (3#2 ++ mod.extractLsb' 3 2 ++ BitVec.ofBool pf ++ mod.extractLsb' 0 3) := rfl
  rw [h, bitsOf_append, bitsOf_append, bitsOf_append, bitsOf_ofBool]
  rfl

theorem bitsOf_iControl (ns : SeqNum) (pf : Bool) (nr : SeqNum) :
    bitsOf (iControl ns pf nr) = [false] ++ bitsOf ns ++ [pf] ++ bitsOf nr := by
  have h : bitsOf (iControl ns pf nr) = bitsOf (0#1 ++ ns ++ BitVec.ofBool pf ++ nr) := rfl
  rw [h, bitsOf_append, bitsOf_append, bitsOf_append, bitsOf_ofBool]
  rfl

/-- The two halves of a modifier in a U control field (R61). -/
theorem bitsOf_modifier (mod : BitVec 5) :
    bitsOf (mod.extractLsb' 3 2) = [mod.getLsbD 4, mod.getLsbD 3] ∧
    bitsOf (mod.extractLsb' 0 3) = [mod.getLsbD 2, mod.getLsbD 1, mod.getLsbD 0] := by
  constructor <;> simp [bitsOf, List.range_succ, BitVec.getMsbD_eq_getLsbD]

namespace Machine

/-! ### The built frames (R82, R83, R92) -/

/-- A built frame classifies back at its own address, with its control and information field. -/
theorem classify_buildFrame (a c : BitVec 8) (info : Bits) :
    classify a (buildFrame a c info) = .frame a (ctrlType c) c info := by
  rw [classify_long a _ (by simp) (parseAddress_buildFrame a c info), parseFrameType_buildFrame, ctrlOf_buildFrame,
    bitRange_info_buildFrame]

/-- Settles O5: a built frame is its fields one after the other, and the classifier and the parsers find each again. -/
theorem builtFramesClassifyBack : Obligations.BuiltFramesClassifyBack := by
  unfold Obligations.BuiltFramesClassifyBack
  refine ⟨fun a mod pf => ?_, fun a info ns pf nr => ?_, fun a mod pf => ⟨?_, bitsOf_uControl mod pf, ?_⟩,
    fun a info ns pf nr => ⟨?_, bitsOf_iControl ns pf nr, ?_⟩⟩
  · obtain ⟨hm1, hm2⟩ := bitsOf_modifier mod
    rw [buildU, buildFrame, bitsOf_byte, bitsOf_uControl, hm1, hm2]
    rfl
  · rw [buildI, buildFrame, bitsOf_byte, bitsOf_iControl, bitsOf_three, bitsOf_three]
    rfl
  · rw [buildU, classify_buildFrame, ctrlType_uControl]
  · rw [buildU, parseModifier, ctrlOf_buildFrame, ctrlMod_uControl]
  · rw [buildI, classify_buildFrame, ctrlType_iControl]
  · rw [buildI, parseAckNumber, ctrlOf_buildFrame, ctrlNR_iControl]

/-! ### The field parsers (R84 to R89) -/

theorem parseFrameType_eq (b : Bits) :
    parseFrameType b = if bitAt b 16 then (if bitAt b 17 then .u else .s) else .i := by
  unfold parseFrameType
  cases bitAt b 16 <;> cases bitAt b 17 <;> rfl

/-- CTRLV of a long enough frame by the weights of its four parts, each one below its width's power of two. -/
theorem toNat_ctrlOf_parts {b : Bits} (h : 24 ≤ b.length) :
    (ctrlOf b).toNat = uint (bitRange b 16 17) * 64 + uint (bitRange b 18 19) * 16 + (bitAt b 20).toNat * 8 +
        uint (bitRange b 21 23) ∧
      uint (bitRange b 18 19) < 4 ∧ uint (bitRange b 21 23) < 8 := by
  have hs : (bitRange b 18 19).length = 2 := by rw [length_bitRange]; omega
  have hr : (bitRange b 21 23).length = 3 := by rw [length_bitRange]; omega
  have hp : uint [bitAt b 20] = (bitAt b 20).toNat := by cases bitAt b 20 <;> rfl
  have hslt := uint_lt (bitRange b 18 19)
  have hrlt := uint_lt (bitRange b 21 23)
  rw [hs] at hslt
  rw [hr] at hrlt
  refine ⟨?_, hslt, hrlt⟩
  calc (ctrlOf b).toNat
      = uint (bitRange b 16 17 ++ (bitRange b 18 19 ++ ([bitAt b 20] ++ bitRange b 21 23))) := by
        rw [toNat_ctrlOf, bitRange_split b (j := 17) (by decide) (by decide),
          bitRange_split b (i := 18) (j := 19) (by decide) (by decide),
          bitRange_split b (i := 20) (j := 20) (by decide) (by decide), bitRange_single (by omega)]
    _ = _ := by
        simp only [uint_append, List.length_append, hs, hr, hp, List.length_singleton]
        omega

/-- Settles O6: the fields of the control field, read off the weights of its parts. -/
theorem fieldParsersReadTheirBits : Obligations.FieldParsersReadTheirBits := by
  unfold Obligations.FieldParsersReadTheirBits
  refine ⟨fun b _ => toNat_ofNat_uint (by simp), fun b _ => ⟨fun h16 => ?_, fun h16 _ h17 => ?_, fun h16 _ h17 => ?_⟩,
    fun b hb => ?_⟩
  · rw [parseFrameType_eq, h16]; rfl
  · rw [parseFrameType_eq, h16, h17]; rfl
  · rw [parseFrameType_eq, h16, h17]; rfl
  · obtain ⟨hc, hs, hr⟩ := toNat_ctrlOf_parts hb
    obtain ⟨-, hnr, hcode⟩ := toNat_ctrlFields (ctrlOf b)
    have hp := (bitAt b 20).toNat_lt
    refine ⟨?_, ?_, ?_, ?_⟩
    · rw [parseModifier, toNat_ctrlMod]; omega
    · rw [parseAckNumber, hnr]; omega
    · have hbit : (ctrlOf b).toNat / 8 % 2 = (bitAt b 20).toNat := by omega
      rw [parsePF, ctrlPF_eq_decide, hbit]
      cases bitAt b 20 <;> rfl
    · rw [parseSCode, hcode]; omega

/-! ### The classifier (R90) -/

section Addressed
variable {a : BitVec 8} {b : Bits} (ha : parseAddress b = a)
include ha

/-- A string of this station that ends before its type is known is malformed of no type. -/
theorem classify_untyped (hn : 16 ≤ b.length) (ht : b.length < 17 ∨ bitAt b 16 = true ∧ b.length < 18) :
    classify a b = .malformed a none := by
  have h16 : ¬ b.length < 16 := by omega
  rcases ht with h | ⟨hbit, h⟩
  · simp [classify, ha, h16, h]
  · simp [classify, ha, h16, hbit, h]

/-- A string of this station that ends after its type is known, and before a frame can, is malformed of that type. -/
theorem classify_typed (ht : 17 ≤ b.length ∧ bitAt b 16 = false ∨ 18 ≤ b.length) (hn : b.length < 32) :
    classify a b = .malformed a (some (parseFrameType b)) := by
  have h16 : ¬ b.length < 16 := by omega
  have h17 : ¬ b.length < 17 := by omega
  have hknown : ¬ (bitAt b 16 = true ∧ b.length < 18) := by
    rintro ⟨hbit, h18⟩
    rcases ht with ⟨-, hbit'⟩ | h
    · rw [hbit] at hbit'; cases hbit'
    · omega
  simp only [classify, if_neg h16, ha, ne_eq, not_true_eq_false, if_false, if_neg h17, if_neg hknown, if_pos hn]

end Addressed

/-- Settles O7: the lengths and addresses of the statement are those of the rules of Classify above. -/
theorem classifyOutcomes : Obligations.ClassifyOutcomes := by
  unfold Obligations.ClassifyOutcomes
  intro a b
  refine ⟨fun hn => classify_foreign (.inl hn), fun _ ha => classify_foreign (.inr ha), fun hn ha =>
    ⟨fun h => classify_untyped ha hn (.inl h), fun h17 hbit h32 => ?_,
      fun _ hbit h => classify_untyped ha hn (.inr ⟨hbit, h⟩), fun h18 hbit h32 => ?_, fun h32 => ?_⟩⟩
  · rw [classify_typed ha (.inl ⟨h17, hbit⟩) h32, parseFrameType_eq, hbit]; rfl
  · rw [classify_typed ha (.inr h18) h32, parseFrameType_eq, hbit]; rfl
  · rw [classify_long a b h32 ha, parseFrameType_eq]

/-! ### What of an answer is not read (R91) -/

/-- The address and the control field lie in the bits 8 to 23, and the type in the control field. -/
theorem fields_of_header {b b' : Bits} (hb : 24 ≤ b.length) (hb' : 24 ≤ b'.length)
    (h : bitRange b 8 23 = bitRange b' 8 23) :
    parseAddress b = parseAddress b' ∧ ctrlOf b = ctrlOf b' ∧ parseFrameType b = parseFrameType b' := by
  have hpart {k l : Nat} (hl : 8 + l ≤ 23) : bitRange b (8 + k) (8 + l) = bitRange b' (8 + k) (8 + l) := by
    rw [← bitRange_bitRange b hl, ← bitRange_bitRange b' hl, h]
  have hc : ctrlOf b = ctrlOf b' := congrArg (fun x => BitVec.ofNat 8 (uint x)) (hpart (k := 8) (l := 15) (by decide))
  refine ⟨congrArg (fun x => BitVec.ofNat 8 (uint x)) (hpart (k := 0) (l := 7) (by decide)), hc, ?_⟩
  rw [← ctrlType_ctrlOf b hb, ← ctrlType_ctrlOf b' hb', hc]

/-- Two answers of 32 bits or more with one header are received alike: the information field, wherever it ends, is not
read. -/
theorem onReceived_of_header {b b' : Bits} (hb : 32 ≤ b.length) (hb' : 32 ≤ b'.length)
    (h : bitRange b 8 23 = bitRange b' 8 23) (a : BitVec 8) (s : State) :
    onReceived (receiveFrame a (some b)) s = onReceived (receiveFrame a (some b')) s := by
  obtain ⟨haddr, hctrl, htype⟩ := fields_of_header (by omega) (by omega) h
  by_cases ha : parseAddress b = a
  · have ha' : parseAddress b' = a := haddr ▸ ha
    rw [receiveFrame, receiveFrame, classify_long a b hb ha, classify_long a b' hb' ha', hctrl, htype]
    exact (onReceived_info _ _ _ _ s).trans (onReceived_info _ _ _ _ s).symm
  · have ha' : parseAddress b' ≠ a := haddr ▸ ha
    rw [receiveFrame_notMine (classify_foreign (.inr ha)), receiveFrame_notMine (classify_foreign (.inr ha'))]

/-- Settles O8: at a receive attempt the step is the reception of the listed answer. -/
theorem delimitersAndExtraBitsUnread : Obligations.DelimitersAndExtraBitsUnread := by
  unfold Obligations.DelimitersAndExtraBitsUnread
  intro s u b b' rest hu hd hb hb' h
  rw [step_receiving_listed hu hd, step_receiving_listed hu hd, onReceived_of_header hb hb' h]

end Machine
end Sys2Proof
end

section
/-! The connection state machine (41_connection.md R98 to R106): the outcomes of an indication's step, the steps of the
four connection commands, and the SNRM, DISC and I-frames that reach them. -/

namespace Sys2Proof.Machine

/-! ### The outcomes of an indication (R100, R102, R106) -/

section Outcomes
variable (want : BitVec 5) (reached : ConnState) (s : State) (a : BitVec 8)

/-- An I- or S-frame completes an indication with its type as the diagnostic. -/
theorem indicationOn_wrongType {ty : FrameType} (hty : ty ≠ .u) (c : BitVec 8) (info : Bits) :
    indicationOn want reached (.frame a ty c info) s =
      complete .unexpectedFrameReceived a .type (if ty = .i then 0 else 1) s := by
  cases ty with
  | i => rfl
  | s => rfl
  | u => exact absurd rfl hty

/-- A U-frame completes an indication: successfully, exactly when its modifier is the one waited for. -/
theorem indicationOn_uFrame (c : BitVec 8) (info : Bits) :
    indicationOn want reached (.frame a .u c info) s =
      if ctrlMod c = want then complete .srvSuccessful a .none 0 { s with connState := reached }
      else complete .unexpectedUFrameReceived a .mod (ctrlMod c) s := rfl

/-- An indication's action waits, writes the registers of a completion alone, or succeeds and writes CONN_STATE
besides. -/
theorem indicationOn_outcome (r : Received) :
    indicationOn want reached r s = s ∨
    (∃ c v k d, indicationOn want reached r s = complete c v k d s) ∨
    ∃ v, indicationOn want reached r s = complete .srvSuccessful v .none 0 { s with connState := reached } := by
  cases r with
  | retry => exact .inl rfl
  | malformed v t => exact .inr (.inl ⟨.decodeFailure, v, .type, typeCode t, rfl⟩)
  | frame v ty c info =>
    by_cases hty : ty = .u
    · subst hty
      rw [indicationOn_uFrame]
      by_cases hm : ctrlMod c = want
      · exact .inr (.inr ⟨v, if_pos hm⟩)
      · exact .inr (.inl ⟨_, _, _, _, if_neg hm⟩)
    · exact .inr (.inl ⟨_, _, _, _, indicationOn_wrongType want reached s v hty c info⟩)

end Outcomes

/-- The engine step of an indication, by what its receive attempt answered: R100 and R102 differ in the modifier waited
for and the state reached alone. -/
theorem indicationOn_step {e : StepResult} {want : BitVec 5} {reached : ConnState} {r : Received} {t : State}
    (he : e = .next (indicationOn want reached r t)) :
    (r = .retry → e = .next t) ∧
    (∀ a ty, r = .malformed a ty → e = .next (complete .decodeFailure a .type (typeCode ty) t)) ∧
    (∀ a ty c info, r = .frame a ty c info → ty ≠ .u →
      e = .next (complete .unexpectedFrameReceived a .type (if ty = .i then 0 else 1) t)) ∧
    (∀ a c info, r = .frame a .u c info → ctrlMod c ≠ want →
      e = .next (complete .unexpectedUFrameReceived a .mod (ctrlMod c) t)) ∧
    (∀ a c info, r = .frame a .u c info → ctrlMod c = want →
      e = .next (complete .srvSuccessful a .none 0 { t with connState := reached })) := by
  subst he
  refine ⟨?_, ?_, ?_, ?_, ?_⟩
  · rintro rfl
    rfl
  · rintro a ty rfl
    rfl
  · rintro a ty c info rfl hty
    rw [indicationOn_wrongType want reached t a hty]
  · rintro a c info rfl hm
    rw [indicationOn_uFrame, if_neg hm]
  · rintro a c info rfl hm
    rw [indicationOn_uFrame, if_pos hm]

/-- Settles O21: CONN_IND is the indication that waits for SNRM. -/
theorem connIndStep_spec : Obligations.ConnIndStep := by
  unfold Obligations.ConnIndStep
  intro s t hb hop hp ht
  subst ht
  exact indicationOn_step (exec_connInd_wait hb hop hp)

/-- Settles O22: DISC_IND is the indication that waits for DISC, and no indication transmits. -/
theorem discIndStep_spec : Obligations.DiscIndStep := by
  unfold Obligations.DiscIndStep
  intro s t hb hop hp ht
  subst ht
  have he := exec_discInd_wait hb hop hp
  obtain ⟨hretry, hmalformed, htype, hmod, hdisc⟩ := indicationOn_step he
  refine ⟨hretry, hmalformed, htype, hmod, hdisc, fun v hv => ?_⟩
  rw [he] at hv
  injection hv with hv
  rw [← hv, discIndOn, indicationOn_tx, rxAttempt_tx]

/-- An indication that completed without success wrote the registers of a completion alone. -/
theorem indicationOn_failed {want : BitVec 5} {reached : ConnState} {r : Received} {v t : State} (hv : v.busy = true)
    (ht : indicationOn want reached r v = t) (hb : t.busy = false) (hc : t.resCode ≠ .srvSuccessful) :
    t = complete t.resCode t.resValue t.resDiagKind t.resDiag v := by
  subst ht
  rcases indicationOn_outcome want reached v r with h | ⟨c, x, k, d, h⟩ | ⟨x, h⟩
  · rw [h, hv] at hb
    cases hb
  · rw [h]
    rfl
  · rw [h] at hc
    exact absurd rfl hc

/-- Settles O45: either indication's step is its action on the state after the one receive attempt. -/
theorem failedIndicationFrame : Obligations.FailedIndicationFrame := by
  unfold Obligations.FailedIndicationFrame
  intro i s t hb hp hi h hidle hc
  have hv : (rxAttempt s).2.busy = true := by rw [rxAttempt_busy, hb]
  rcases hi with ⟨rfl, hop⟩ | ⟨rfl, hop⟩
  · rw [exec_connInd_wait hb hop hp] at h
    injection h with h
    exact indicationOn_failed hv h hidle hc
  · rw [exec_discInd_wait hb hop hp] at h
    injection h with h
    exact indicationOn_failed hv h hidle hc

/-! ### CONN_STATE (R98) -/

/-- An indication's step keeps CONN_STATE, or completes successfully with the state it reaches. -/
theorem indicationOn_connState {s v : State} (hv : v = s ∨ v = (rxAttempt s).2) (want : BitVec 5)
    (reached : ConnState) (r : Received) :
    (indicationOn want reached r v).connState = s.connState ∨
    ((indicationOn want reached r v).resCode = .srvSuccessful ∧ (indicationOn want reached r v).resultValid = true ∧
      (indicationOn want reached r v).connState = reached) := by
  obtain ⟨rx, n, rfl⟩ := eq_of_attempt hv
  rcases indicationOn_outcome want reached { s with rx := rx, rxDrawn := n } r with
    h | ⟨c, x, k, d, h⟩ | ⟨x, h⟩ <;> rw [h]
  · exact .inl rfl
  · exact .inl rfl
  · exact .inr ⟨rfl, rfl, rfl⟩

/-- Settles O42: the four rows of R98 are the only executions that write CONN_STATE. -/
theorem connStateTransitions : Obligations.ConnStateTransitions := by
  unfold Obligations.ConnStateTransitions
  intro i s t h
  cases exec_executed h with
  | nothing | refused | started | accepted => exact .inl rfl
  | connInd v r hb hop _ hv =>
    exact (indicationOn_connState hv modSNRM .awaitingResponse r).imp_right
      fun ⟨hc, hr, hs⟩ => ⟨hc, hr, hb, .inl ⟨hop, hs⟩⟩
  | discInd v r hb hop _ hv =>
    exact (indicationOn_connState hv modDISC .disconnected r).imp_right
      fun ⟨hc, hr, hs⟩ => ⟨hc, hr, hb, .inr (.inr (.inl ⟨hop, hs⟩))⟩
  | connResp hb hop => exact .inr ⟨rfl, rfl, hb, .inr (.inl ⟨hop, rfl⟩)⟩
  | close hb hop => exact .inr ⟨rfl, rfl, hb, .inr (.inr (.inr ⟨hop, rfl⟩))⟩
  | pollSync v a _ _ _ hv =>
    obtain ⟨rx, n, rfl⟩ := eq_of_attempt hv
    obtain ⟨phase, h⟩ := pollSyncOn_eq a { s with rx := rx, rxDrawn := n }
    rw [h]
    exact .inl rfl
  | loop v _ a _ _ _ hv hl =>
    obtain ⟨rx, n, rfl⟩ := eq_of_attempt hv
    rcases loopStep_eq hl with rfl | ⟨vs, rhs, fb, next, tx, rfl⟩ <;> exact .inl rfl

/-! ### Acceptance and the one-step commands (R99, R101, R104) -/

/-- Settles O16: an open engine starts either indication in WAIT. -/
theorem indicationsAccepted : Obligations.IndicationsAccepted := by
  unfold Obligations.IndicationsAccepted
  intro s hb hc hcl
  rw [exec_connInd_idle hb, exec_discInd_idle hb, screenCommand_start hc hcl, screenCommand_start hc hcl]
  exact ⟨rfl, rfl⟩

/-- Settles O23: the step written out, with W mod 8 in the spelling of R20. -/
theorem connRespStep_spec : Obligations.ConnRespStep := by
  unfold Obligations.ConnRespStep
  intro s hb hop
  rw [exec_connResp_running hb hop, ← windowSeq_eq_ofNat]
  rfl

/-- Settles O24: the step written out. -/
theorem closeStep_spec : Obligations.CloseStep := by
  unfold Obligations.CloseStep
  intro s hb hop
  rw [exec_close_running hb hop]
  rfl

/-! ### Frames by the phase that receives them (R100, R102, 43_transfer_engine.md R121) -/

section Receiving
variable {s : State} (hb : s.busy = true)
include hb

/-- A frame at CONN_IND is CONN_IND's action on it. -/
theorem frameArrives_connInd (hop : s.op = .connInd) (hp : s.phase = .wait) (c : BitVec 8) :
    frameArrives c s = .next (connIndOn (.frame s.stationAddr (ctrlType c) c []) s) := by
  have hd : rxDue s = true := (rxDue_iff s).mpr ⟨hb, .inl ⟨.inl hop, hp⟩⟩
  simp only [frameArrives, if_pos hd, onReceived, hop, hp]

/-- A frame at DISC_IND is DISC_IND's action on it. -/
theorem frameArrives_discInd (hop : s.op = .discInd) (hp : s.phase = .wait) (c : BitVec 8) :
    frameArrives c s = .next (discIndOn (.frame s.stationAddr (ctrlType c) c []) s) := by
  have hd : rxDue s = true := (rxDue_iff s).mpr ⟨hb, .inl ⟨.inr hop, hp⟩⟩
  simp only [frameArrives, if_pos hd, onReceived, hop, hp]

/-- A U-frame at CONN_IND: an SNRM succeeds, any other is the wrong one (R100). -/
theorem uFrame_at_connInd (hop : s.op = .connInd) (hp : s.phase = .wait) (mod : BitVec 5) (pf : Bool) :
    frameArrives (uControl mod pf) s = .next (
      if mod = modSNRM then complete .srvSuccessful s.stationAddr .none 0 { s with connState := .awaitingResponse }
      else complete .unexpectedUFrameReceived s.stationAddr .mod mod s) := by
  rw [frameArrives_connInd hb hop hp, ctrlType_uControl, connIndOn, indicationOn_uFrame, ctrlMod_uControl]

/-- A U-frame at DISC_IND: a DISC succeeds, any other is the wrong one (R102). -/
theorem uFrame_at_discInd (hop : s.op = .discInd) (hp : s.phase = .wait) (mod : BitVec 5) (pf : Bool) :
    frameArrives (uControl mod pf) s = .next (
      if mod = modDISC then complete .srvSuccessful s.stationAddr .none 0 { s with connState := .disconnected }
      else complete .unexpectedUFrameReceived s.stationAddr .mod mod s) := by
  rw [frameArrives_discInd hb hop hp, ctrlType_uControl, discIndOn, indicationOn_uFrame, ctrlMod_uControl]

/-- An I-frame at either indication completes it with type I as the diagnostic. -/
theorem iFrame_at_indication (hop : s.op = .connInd ∨ s.op = .discInd) (hp : s.phase = .wait) (ns : SeqNum) (pf : Bool)
    (nr : SeqNum) : frameArrives (iControl ns pf nr) s =
      .next (complete .unexpectedFrameReceived s.stationAddr .type 0 s) := by
  obtain ⟨want, reached, -, h⟩ := frameArrives_indication hb hop hp (iControl ns pf nr)
  rw [h, ctrlType_iControl, indicationOn_wrongType want reached s _ (by decide), if_pos rfl]

/-- An I-frame acknowledges nothing, so POLL_SYNC discards it (R114, R121). -/
theorem iFrame_at_pollSync (hop : s.op = .dataReq) (hp : s.phase = .pollSync) (ns : SeqNum) (pf : Bool)
    (nr : SeqNum) : frameArrives (iControl ns pf nr) s = .next s := by
  have hd : rxDue s = true := (rxDue_iff s).mpr ⟨hb, .inr (.inl ⟨hop, hp⟩)⟩
  rw [frameArrives, if_pos hd, onReceived, hop, hp, ctrlType_iControl]
  rfl

end Receiving

/-- Settles O30: SNRM is the U-frame of modifier 1, which CONN_IND waits for and DISC_IND does not. -/
theorem snrmArrives : Obligations.SnrmArrives := by
  unfold Obligations.SnrmArrives
  intro pf s hb
  exact ⟨fun hop hp => uFrame_at_connInd hb hop hp modSNRM pf, fun hop hp => uFrame_at_discInd hb hop hp modSNRM pf,
    fun hop hp => uFrame_at_pollSync hb hop hp modSNRM pf⟩

/-- Settles O31: DISC is the U-frame of modifier 2, which DISC_IND waits for and CONN_IND does not. -/
theorem discArrives : Obligations.DiscArrives := by
  unfold Obligations.DiscArrives
  intro pf s hb
  exact ⟨fun hop hp => uFrame_at_discInd hb hop hp modDISC pf, fun hop hp => uFrame_at_connInd hb hop hp modDISC pf,
    fun hop hp => uFrame_at_pollSync hb hop hp modDISC pf⟩

/-- Settles O34: neither indication waits for an I-frame, and it acknowledges nothing. -/
theorem iFramesArrive : Obligations.IFramesArrive := by
  unfold Obligations.IFramesArrive
  intro s ns pf nr hb
  exact ⟨fun hop hp => iFrame_at_indication hb hop hp ns pf nr, fun hop hp => iFrame_at_pollSync hb hop hp ns pf nr⟩

end Sys2Proof.Machine
end

section
/-! Frames in DATA_REQ's two receiving phases (42_reception_filter.md R113 to R115, 43_transfer_engine.md R121, R122,
R128, R134). -/

namespace Sys2Proof.Machine

/-! ### What ReceiveAck reports of each format -/

/-- Only an S-frame acknowledges (R113). -/
theorem ackOf_of_ne_s {t : FrameType} (ht : t ≠ .s) (a c : BitVec 8) (info : Bits) :
    ackOf (.frame a t c info) = none := by
  cases t with
  | s => exact absurd rfl ht
  | i | u => rfl

/-- An RR is reported with its own P/F and N(R), and no other S-frame is (R114). -/
theorem ackOf_sControl (a : BitVec 8) (code : BitVec 2) (pf : Bool) (nr : SeqNum) (info : Bits) :
    ackOf (.frame a .s (sControl code pf nr) info) = if code = codeRR then some ⟨pf, nr⟩ else none := by
  simp [ackOf, isRR]

/-! ### A loop step with work left -/

/-- The transmit sub-step comes first, and the acknowledgment sub-step runs on what it leaves (R122). -/
theorem loopStep_of_txSubStep_ok {s u : State} (hw : transferDone s = false) (hu : txSubStep s = .ok u)
    (a : Option Ack) : loopStep a s = ackSubStep a u := by
  rw [loopStep, hw, hu]
  rfl

/-- A transmission that faults ends the step, whatever was received (R44). -/
theorem loopStep_of_txSubStep_error {s : State} {e : Fault} (hw : transferDone s = false)
    (he : txSubStep s = .error e) (a : Option Ack) : loopStep a s = .error e := by
  rw [loopStep, hw, he]
  rfl

/-- P/F plays no part in an acknowledgment (R134). -/
theorem ackSubStep_pf (pf pf' : Bool) (nr : SeqNum) (s : State) :
    ackSubStep (some ⟨pf, nr⟩) s = ackSubStep (some ⟨pf', nr⟩) s := rfl

/-! ### The arrival of a frame -/

section Receiving
variable {s : State} (hb : s.busy = true) (hop : s.op = .dataReq)
include hb hop

/-- A frame in POLL_SYNC is the poll step on what it acknowledges (R121). -/
theorem frameArrives_pollSync (hp : s.phase = .pollSync) (c : BitVec 8) :
    frameArrives c s = .next (pollSyncOn (ackOf (.frame s.stationAddr (ctrlType c) c [])) s) := by
  have hd : rxDue s = true := (rxDue_iff s).mpr ⟨hb, .inr (.inl ⟨hop, hp⟩)⟩
  simp only [frameArrives, if_pos hd, onReceived, hop, hp]

/-- An S-frame in POLL_SYNC: an RR is the poll step's answer, any other is discarded (R114, R121). -/
theorem sFrame_at_pollSync (hp : s.phase = .pollSync) (code : BitVec 2) (pf : Bool) (nr : SeqNum) :
    frameArrives (sControl code pf nr) s =
      .next (pollSyncOn (if code = codeRR then some ⟨pf, nr⟩ else none) s) := by
  rw [frameArrives_pollSync hb hop hp, ctrlType_sControl, ackOf_sControl]

/-- A frame in the loop is the loop step on what it acknowledges, where work is left (R122). -/
theorem frameArrives_loop (hp : s.phase = .loop) (hw : transferDone s = false) (c : BitVec 8) :
    frameArrives c s = outcome (loopStep (ackOf (.frame s.stationAddr (ctrlType c) c [])) s) := by
  have hd : rxDue s = true :=
    (rxDue_iff s).mpr ⟨hb, .inr (.inr ⟨hop, hp, by simp [← transferDone_iff, hw]⟩)⟩
  simp only [frameArrives, if_pos hd, onReceived, hop, hp]

end Receiving

section Loop
variable {s u : State} (hb : s.busy = true) (hop : s.op = .dataReq) (hp : s.phase = .loop)
  (hw : transferDone s = false) (hu : txSubStep s = .ok u)
include hb hop hp hw hu

/-- A frame that acknowledges nothing leaves the loop step its transmission only (R115). -/
theorem discarded_in_loop {c : BitVec 8} (hc : ackOf (.frame s.stationAddr (ctrlType c) c []) = none) :
    frameArrives c s = .next u := by
  rw [frameArrives_loop hb hop hp hw, hc, loopStep_of_txSubStep_ok hw hu]
  rfl

theorem iFrame_in_loop (ns : SeqNum) (pf : Bool) (nr : SeqNum) : frameArrives (iControl ns pf nr) s = .next u :=
  discarded_in_loop hb hop hp hw hu (ackOf_of_ne_s (by simp) _ _ _)

theorem uFrame_in_loop (mod : BitVec 5) (pf : Bool) : frameArrives (uControl mod pf) s = .next u :=
  discarded_in_loop hb hop hp hw hu (ackOf_of_ne_s (by simp) _ _ _)

/-- RNR, REJ and SREJ are discarded in the loop (30_encoding.md R69, R115). -/
theorem nonRR_in_loop {code : BitVec 2} (hcode : code ≠ codeRR) (pf : Bool) (nr : SeqNum) :
    frameArrives (sControl code pf nr) s = .next u :=
  discarded_in_loop hb hop hp hw hu (by rw [ctrlType_sControl, ackOf_sControl, if_neg hcode])

/-- An RR acknowledges in the state its loop step's transmission leaves, whatever its P/F (R122, R128, R134). -/
theorem rr_in_loop (pf : Bool) (nr : SeqNum) :
    frameArrives (sControl codeRR pf nr) s = outcome (ackSubStep (some ⟨true, nr⟩) u) := by
  rw [frameArrives_loop hb hop hp hw, ctrlType_sControl, ackOf_sControl, if_pos rfl, loopStep_of_txSubStep_ok hw hu,
    ackSubStep_pf pf true]

end Loop

/-- Settles O36: RR alone acknowledges, every other kind is discarded, and a faulting transmission ends the step. -/
theorem framesInLoop : Obligations.FramesInLoop := by
  unfold Obligations.FramesInLoop
  intro s hb hop hp hleft
  have hw : transferDone s = false := by rwa [← transferDone_iff, Bool.not_eq_true] at hleft
  refine ⟨fun u hu => ?_, fun e c he => ?_⟩
  · have nonRR {code : BitVec 2} (hcode : code ≠ codeRR) := nonRR_in_loop hb hop hp hw hu hcode
    have uFrame := uFrame_in_loop hb hop hp hw hu
    refine ⟨fun pf nr => ?_, iFrame_in_loop hb hop hp hw hu, fun pf nr => ?_, fun pf => ?_,
      fun m1 pf m2 => uFrame (m1 ++ m2) pf⟩
    · obtain ⟨_, _, _, hack⟩ := ackSubStep_eq (some ⟨true, nr⟩) u
      exact ⟨_, hack, (rr_in_loop hb hop hp hw hu pf nr).trans (congrArg outcome hack)⟩
    · exact ⟨nonRR (code := codeRNR) (by decide) pf nr, nonRR (code := codeREJ) (by decide) pf nr,
        nonRR (code := codeSREJ) (by decide) pf nr⟩
    · exact ⟨uFrame modSNRM pf, uFrame modDISC pf, uFrame modUA pf⟩
  · rw [exec_decodeControl, frameArrives_loop hb hop hp hw, loopStep_of_txSubStep_error hw he]
    rfl

/-- Settles O35: of the four S codes RR alone is the poll step's answer, and only its P/F is used. -/
theorem sFramesAtPollSync : Obligations.SFramesAtPollSync := by
  unfold Obligations.SFramesAtPollSync
  intro s pf nr hb hop hp
  have arrives := sFrame_at_pollSync hb hop hp
  exact ⟨arrives codeRR true nr, arrives codeRR false nr, arrives codeRNR pf nr, arrives codeREJ pf nr,
    arrives codeSREJ pf nr⟩

end Sys2Proof.Machine
end

section
/-! The transfer engine one step at a time (43_transfer_engine.md R118 to R140): the window's sequence arithmetic, each
sub-step by the condition that selects it, and the steps of DATA_REQ made of them. -/

namespace Sys2Proof.Machine

/-! ### Acceptance (R118, R120) -/

/-- Settles O18: the checks of R72 pass, and the start writes the transfer registers. -/
theorem dataReqAccepted : Obligations.DataReqAccepted := by
  unfold Obligations.DataReqAccepted
  intro s len hb hc hcl hlen
  have hcause : lenCause len s = none := by rw [lenCause, if_neg (Nat.not_lt.mpr hlen)]
  rw [exec_dataReq_idle hb, hcause, screenCommand_start hc hcl]
  rfl

/-! ### The window's arithmetic (10_state.md R21, R24, R129) -/

/-- The left edge with W mod 8 in the spelling of R20. -/
theorem leftEdge_eq (s : State) : leftEdge s = s.rhs - BitVec.ofNat 3 (s.w.toNat % 8) := by
  rw [leftEdge, windowSeq_eq_ofNat]

/-- A difference modulo 8, its terms in the order of R21. -/
theorem toNat_seq_sub (a b : SeqNum) : (a - b).toNat = (a.toNat + 8 - b.toNat) % 8 := by
  rw [seq_sub_toNat, Nat.add_comm 8]

/-- Settles O55: the three counts are differences modulo 8, and the example has the left edge 6. -/
theorem wraparoundCounts : Obligations.WraparoundCounts := by
  unfold Obligations.WraparoundCounts
  refine ⟨fun s nr => ⟨?_, toNat_seq_sub _ _, toNat_seq_sub _ _⟩, fun s hw hr => ?_⟩
  · rw [leftEdge_eq, toNat_seq_sub, ofNat3_toNat, Nat.mod_mod]
  · have hle : leftEdge s = 6 := by rw [leftEdge, windowSeq, hw, hr]; rfl
    simp only [ackCount, hle]
    decide

/-! ### The transmit sub-step (R123 to R127) -/

section Transmit
variable {s : State}

/-- Nothing is sent on a closed window, or with every buffered frame before VS and every fragment sent. -/
theorem txSubStep_nothing (h : s.vs = s.rhs ∨
    (s.fb.length ≤ windowOffset s ∧ s.fragTotal.toNat ≤ s.fragNext.toNat)) : txSubStep s = .ok s := by
  have hsend : (windowOpen s && (resendDue s || unsentRemain s)) = false := by
    rcases h with hclosed | ⟨hoff, hall⟩
    · simp [windowOpen, hclosed]
    · simp [resendDue, unsentRemain, Nat.not_lt.mpr hoff, Nat.not_lt.mpr hall]
  simp [txSubStep, hsend]

/-- The stored frame at `off` is sent again (R125). -/
theorem txSubStep_resend (hopen : s.vs ≠ s.rhs) {f : Bits} (hf : s.fb[windowOffset s]? = some f) :
    txSubStep s = .ok { transmit f s with vs := s.vs + 1 } := by
  have hlt : windowOffset s < s.fb.length := (List.getElem?_eq_some_iff.mp hf).1
  have hsend : retransmit (windowOffset s) s = .ok (transmit f s) := retransmit_ok.mpr ⟨f, hf, rfl⟩
  simp [txSubStep, windowOpen, resendDue, hopen, hlt, hsend]

/-- With VS behind every buffered frame the next fragment is sent for the first time (R124). -/
theorem txSubStep_new (hopen : s.vs ≠ s.rhs) (hoff : s.fb.length ≤ windowOffset s)
    (hleft : s.fragNext.toNat < s.fragTotal.toNat) :
    txSubStep s = (sendNew s).map fun t => { t with vs := s.vs + 1 } := by
  have hge : ¬ windowOffset s < s.fb.length := Nat.not_lt.mpr hoff
  simp only [txSubStep, windowOpen, resendDue, unsentRemain, hge, hleft, bne_iff_ne.mpr hopen]
  cases sendNew s <;> rfl

/-- A first transmission reads its SDU bytes before anything else (R44, log 13). -/
theorem sendNew_unwritten (hb : fragmentBytes s s.fragNext.toNat = none) : sendNew s = .error .unwrittenSduByte := by
  rw [sendNew, hb]

theorem sendNew_full {ds : List Byte} (hb : fragmentBytes s s.fragNext.toNat = some ds)
    (hfull : s.w.toNat ≤ s.fb.length) : sendNew s = .error .frameBufferBounds := by
  simp [sendNew, hb, fbPush, Nat.not_lt.mpr hfull]

/-- The frame of a first transmission, its final bit in numbers (R124 to R127). -/
theorem txSubStep_fresh (hopen : s.vs ≠ s.rhs) (hoff : s.fb.length ≤ windowOffset s)
    (hleft : s.fragNext.toNat < s.fragTotal.toNat) (hroom : s.fb.length < s.w.toNat) {ds : List Byte} {f : Bits}
    (hb : fragmentBytes s s.fragNext.toNat = some ds)
    (hf : f = buildI s.stationAddr (infoBits ds) s.vs (decide (s.fragNext.toNat + 1 = s.fragTotal.toNat)) s.vr) :
    txSubStep s = .ok { s with
      tx := s.tx ++ [.frame f], fb := s.fb ++ [f], fragNext := s.fragNext + 1, vs := s.vs + 1 } := by
  rw [txSubStep_new hopen hoff hleft, sendNew_ok.mpr ⟨ds, hb, hroom, rfl⟩, finalBit_eq hleft, ← hf]
  rfl

end Transmit

/-- Settles O28: the three branches of R123, a first transmission by its bytes and by the room in FB. -/
theorem transmitSubStep : Obligations.TransmitSubStep := by
  unfold Obligations.TransmitSubStep
  intro s off bytes
  have hoff : off = windowOffset s := by rw [windowOffset, leftEdge_eq]
  have hbytes : bytes = fragmentBytes s s.fragNext.toNat := rfl
  rw [hoff, hbytes]
  refine ⟨txSubStep_nothing, fun f hopen hf => txSubStep_resend hopen hf, fun hopen hge hleft =>
    ⟨fun hb => ?_, fun ds hb hfull => ?_, fun ds f hb hroom hf => txSubStep_fresh hopen hge hleft hroom hb hf⟩⟩
  · rw [txSubStep_new hopen hge hleft, sendNew_unwritten hb]; rfl
  · rw [txSubStep_new hopen hge hleft, sendNew_full hb hfull]; rfl

/-! ### The acknowledgment sub-step (R128 to R134) -/

section Acknowledge
variable {s : State} {pf : Bool} {nr : SeqNum}

/-- An N(R) outside the window is ignored (R130). -/
theorem ackSubStep_outside (h : s.fb.length < ackCount s nr) : ackSubStep (some ⟨pf, nr⟩) s = .ok s := by
  simp [ackSubStep, h]

/-- An N(R) at the left edge acknowledges nothing, and VS goes back (R133). -/
theorem ackSubStep_leftEdge (h : ackCount s nr = 0) :
    ackSubStep (some ⟨pf, nr⟩) s = .ok { s with vs := leftEdge s } := by
  simp [ackSubStep, h]

/-- Any other N(R) retires the frames before it, and moves VS where it was passed (R131, R132). -/
theorem ackSubStep_retire (hpos : 1 ≤ ackCount s nr) (hle : ackCount s nr ≤ s.fb.length) :
    ackSubStep (some ⟨pf, nr⟩) s = .ok { s with
      fb := s.fb.drop (ackCount s nr)
      rhs := s.rhs + BitVec.ofNat 3 (ackCount s nr)
      vs := if windowOffset s < ackCount s nr then nr else s.vs } := by
  simp [ackSubStep, fbDropFront, Nat.not_lt.mpr hle, Nat.ne_of_gt hpos, hle]

/-- Where VS is not passed it stays (R132). -/
theorem ackSubStep_kept {c : Nat} (hc : ackCount s nr = c) (hpos : 1 ≤ c) (hle : c ≤ s.fb.length)
    (hoff : c ≤ windowOffset s) : ackSubStep (some ⟨pf, nr⟩) s =
      .ok { s with fb := s.fb.drop c, rhs := s.rhs + BitVec.ofNat 3 c } := by
  subst hc
  rw [ackSubStep_retire hpos hle, if_neg (Nat.not_lt.mpr hoff)]

end Acknowledge

/-- Settles O29: the cases of c, with the new left edge and the offset it leaves VS. -/
theorem acknowledgeSubStep : Obligations.AcknowledgeSubStep := by
  unfold Obligations.AcknowledgeSubStep
  intro s pf nr le c
  have hle : le = leftEdge s := (leftEdge_eq s).symm
  have hc : c = ackCount s nr := by rw [ackCount, ← hle]
  have hoff : (s.vs - le).toNat = windowOffset s := by rw [windowOffset, ← hle]
  rw [hoff, hc, hle]
  refine ⟨rfl, ackSubStep_outside, ackSubStep_leftEdge, fun hpos hcount => ⟨_, ackSubStep_retire hpos hcount, rfl, ?_⟩⟩
  have hedge := leftEdge_advance s { s with
    fb := s.fb.drop (ackCount s nr), rhs := s.rhs + BitVec.ofNat 3 (ackCount s nr)
    vs := if windowOffset s < ackCount s nr then nr else s.vs } (ackCount s nr) rfl rfl
  refine ⟨hedge.trans (leftEdge_add_ackCount s nr), fun hkept => ?_⟩
  rw [windowOffset, hedge, if_neg (Nat.not_lt.mpr hkept)]
  exact offset_advance s.vs (leftEdge s) _ hkept

/-! ### The steps of DATA_REQ (R121, R122) -/

/-- Settles O25: of all the poll step can receive, an RR with P/F = 1 alone starts the loop. -/
theorem pollSyncStep : Obligations.PollSyncStep := by
  unfold Obligations.PollSyncStep
  intro s t len hb hop hp ht
  rw [exec_dataReq_pollSync hb hop hp, ← ht]
  refine ⟨fun nr ha => by rw [ha]; rfl, fun hno => ?_⟩
  rcases h : receiveAck s.stationAddr (rxAttempt s).1 with - | ⟨- | -, nr⟩
  · rfl
  · rfl
  · exact absurd h (hno nr)

/-- Settles O26: the completion test comes first, and the step that passes it draws no answer. -/
theorem loopCompletes : Obligations.LoopCompletes := by
  unfold Obligations.LoopCompletes
  intro s len hb hop hp hfb hall
  rw [exec_dataReq_loop hb hop hp, if_pos ((transferDone_iff s).mpr ⟨hfb, hall⟩)]
  rfl

section Loop
variable {s : State} (hb : s.busy = true) (hop : s.op = .dataReq) (hp : s.phase = .loop)
  (hw : transferDone s = false)
include hb hop hp hw

/-- With work left, the loop step acknowledges what its one receive attempt answered, in the state its transmission
leaves. -/
theorem exec_loop_transmitted {u : State} (hu : txSubStep (rxAttempt s).2 = .ok u) (len : BitVec 16) :
    exec (.dataReq len) s = outcome (ackSubStep (receiveAck s.stationAddr (rxAttempt s).1) u) := by
  rw [exec_dataReq_loop hb hop hp, hw, loopStep_of_txSubStep_ok ((transferDone_rxAttempt s).trans hw) hu]
  rfl

theorem exec_loop_faulted {e : Fault} (he : txSubStep (rxAttempt s).2 = .error e) (len : BitVec 16) :
    exec (.dataReq len) s = .fault e := by
  rw [exec_dataReq_loop hb hop hp, hw, loopStep_of_txSubStep_error ((transferDone_rxAttempt s).trans hw) he]
  rfl

/-- The same of the engine's turn. -/
theorem turn_loop_transmitted {u : State} (hu : txSubStep (rxAttempt s).2 = .ok u) :
    turn s = outcome (ackSubStep (receiveAck s.stationAddr (rxAttempt s).1) u) := by
  rw [turn_running hb (by rw [runningCommand, hop]), exec_loop_transmitted hb hop hp hw hu]

end Loop

/-- The completion test fails where frames are unacknowledged or fragments unsent (R135). -/
theorem transferDone_eq_false {s : State} (h : ¬ (s.fb = [] ∧ s.fragNext = s.fragTotal)) : transferDone s = false := by
  rwa [← transferDone_iff, Bool.not_eq_true] at h

/-- Settles O27: the loop step in its two sub-steps; the second always answers a state. -/
theorem loopTransmitsThenAcknowledges : Obligations.LoopTransmitsThenAcknowledges := by
  unfold Obligations.LoopTransmitsThenAcknowledges
  intro s len hb hop hp hleft
  have hw := transferDone_eq_false hleft
  refine ⟨fun u hu => ?_, fun e he => exec_loop_faulted hb hop hp hw he len⟩
  obtain ⟨_, _, _, hack⟩ := ackSubStep_eq (receiveAck s.stationAddr (rxAttempt s).1) u
  exact ⟨_, hack, (exec_loop_transmitted hb hop hp hw hu len).trans (congrArg outcome hack)⟩

/-- Settles O56: neither sub-step does anything, so the drawn answer is all that changes. -/
theorem fullWindowStalls : Obligations.FullWindowStalls := by
  unfold Obligations.FullWindowStalls
  intro s u hu hb hop hp hfb hfull hnoAck
  have hw : transferDone u = false := transferDone_eq_false fun h => hfb h.1
  have htx : txSubStep (rxAttempt u).2 = .ok (rxAttempt u).2 := txSubStep_nothing (.inl (by simpa using hfull))
  rw [step_atTurn hu, turn_loop_transmitted hb hop hp hw htx, hnoAck]
  rfl

end Sys2Proof.Machine
end

section
/-! Runs of the transfer engine (43_transfer_engine.md R133, R138): going back over the whole buffer, and the lossless
transfer of an SDU from its poll to its result. -/

namespace Sys2Proof.Machine

/-! ### Runs -/

/-- A run goes on from the state its first step answers. -/
theorem core_run_succ {s u : State} (h : step s = .next u) (m : Nat) : core.run (m + 1) s = core.run m u := by
  simp [Host.Core.run, core, h]

/-- A run along the states a function lists goes on from the last of them. -/
theorem core_run_trace {f : Nat → State} {n : Nat} (h : ∀ k, k < n → step (f k) = .next (f (k + 1))) (m : Nat) :
    core.run (n + m) (f 0) = core.run m (f n) := by
  induction n generalizing f with
  | zero => rw [Nat.zero_add]
  | succ n ih =>
    rw [Nat.succ_add, core_run_succ (h 0 (by omega))]
    exact ih (f := fun k => f (k + 1)) fun k hk => h (k + 1) (by omega)

/-! ### The engine in DATA_REQ -/

theorem EngineInv.busy_of_dataReq {s : State} (h : EngineInv s) (hop : s.op = .dataReq) : s.busy = true := by
  rw [h.sequencer.busy_iff, hop]
  rfl

theorem EngineInv.window_of_dataReq {s : State} (h : EngineInv s) (hop : s.op = .dataReq) :
    1 ≤ s.w.toNat ∧ s.w.toNat ≤ 7 :=
  windowSizeLegal h.cfg (h.open_of_busy (by simp [hop])).1

/-- Fewer than 8 steps from a sequence number are counted exactly. -/
theorem toNat_seq_add_sub (a : SeqNum) {k : Nat} (hk : k < 8) : (a + BitVec.ofNat 3 k - a).toNat = k := by
  rw [BitVec.add_comm, BitVec.add_sub_cancel, ofNat3_toNat, Nat.mod_eq_of_lt hk]

theorem seq_add_succ (a : SeqNum) (k : Nat) : a + BitVec.ofNat 3 k + 1 = a + BitVec.ofNat 3 (k + 1) := by
  rw [BitVec.add_assoc, BitVec.ofNat_add]
  rfl

/-- DATA_REQ is in its loop and no event is pending, so the next step is a loop step (`step_loop_listed` and
`step_loop_done` say which). -/
structure LoopNext (s : State) : Prop where
  env : s.env = []
  busy : s.busy = true
  op : s.op = .dataReq
  phase : s.phase = .loop

/-- A loop step with work left, by the answer listed for it. -/
theorem step_loop_listed {s u : State} (hl : LoopNext s) (hw : transferDone s = false) {x : Option Bits}
    {xs : List (Option Bits)} (hrx : s.rx = x :: xs)
    (hu : txSubStep { s with rx := xs, rxDrawn := s.rxDrawn + 1 } = .ok u) :
    step s = outcome (ackSubStep (receiveAck s.stationAddr x) u) := by
  have hx := rxAttempt_listed hrx
  rw [step_no_event hl.env, turn_loop_transmitted hl.busy hl.op hl.phase hw (u := u) (by rw [hx]; exact hu), hx]

/-- A loop step with the work done completes (R135). -/
theorem step_loop_done {s : State} (hl : LoopNext s) (hd : transferDone s = true) :
    step s = .next (complete .srvSuccessful 0 .none 0 s) := by
  rw [step_no_event hl.env, turn_running hl.busy (by rw [runningCommand, hl.op]),
    exec_dataReq_loop hl.busy hl.op hl.phase, if_pos hd]

/-! ### Going back (R125, R133) -/

/-- The loop k steps after VS went back to the left edge, without an answer: the first k stored frames are sent again
(`step_resent` is the link to the model). -/
def resent (s : State) (k : Nat) : State :=
  { s with
    vs := s.vs + BitVec.ofNat 3 k
    tx := s.tx ++ (s.fb.take k).map .frame
    rx := s.rx.drop k
    rxDrawn := s.rxDrawn + k }

theorem resent_zero (s : State) : resent s 0 = s := by simp [resent]

theorem windowOffset_resent {s : State} (hvs : s.vs = leftEdge s) {k : Nat} (hk : k < 8) :
    windowOffset (resent s k) = k := by
  show (s.vs + BitVec.ofNat 3 k - leftEdge s).toNat = k
  rw [← hvs, toNat_seq_add_sub s.vs hk]

theorem rx_resent {s : State} {rest : List (Option Bits)} (hrx : s.rx = List.replicate s.fb.length none ++ rest)
    {k : Nat} (hk : k < s.fb.length) : (resent s k).rx = none :: s.rx.drop (k + 1) := by
  have hlt : k < s.rx.length := by simp [hrx]; omega
  rw [resent, List.drop_eq_getElem_cons hlt]
  simp [hrx, List.getElem_append_left, hk]

/-- Each step sends the stored frame VS stands at: the window is open as long as VS is inside the buffer. -/
theorem step_resent {s : State} {rest : List (Option Bits)} (h : EngineInv s) (hop : s.op = .dataReq)
    (hp : s.phase = .loop) (he : s.env = []) (hvs : s.vs = leftEdge s)
    (hrx : s.rx = List.replicate s.fb.length none ++ rest) {k : Nat} (hk : k < s.fb.length) :
    step (resent s k) = .next (resent s (k + 1)) := by
  have hloop : LoopNext (resent s k) := ⟨he, h.busy_of_dataReq hop, hop, hp⟩
  have hlegal := h.window_of_dataReq hop
  have hocc := h.window.occupancy
  have hoff := windowOffset_resent hvs (k := k) (by omega)
  have hopen : (resent s k).vs ≠ (resent s k).rhs :=
    (openTest_of (s := resent s k) hlegal hocc (by rw [hoff]; exact hk.le)).mpr (by rw [hoff]; exact hk.trans_le hocc)
  have hleft : transferDone (resent s k) = false := transferDone_eq_false fun hd => by
    rw [show s.fb = [] from hd.1] at hk
    exact absurd hk (Nat.not_lt_zero k)
  have hframe : s.fb[windowOffset (resent s k)]? = some s.fb[k] := by rw [hoff, List.getElem?_eq_getElem hk]
  have hu := txSubStep_resend (s := { resent s k with rx := s.rx.drop (k + 1), rxDrawn := s.rxDrawn + k + 1 })
    hopen hframe
  rw [step_loop_listed hloop hleft (rx_resent hrx hk) hu]
  have hsent : s.fb.take (k + 1) = s.fb.take k ++ [s.fb[k]] := by simp
  simp only [resent, hsent, List.map_append, ← List.append_assoc, ← seq_add_succ, ← Nat.add_assoc]
  rfl

/-- Settles O57: the trace `resent` up to the whole buffer. -/
theorem goBackResendsBuffer : Obligations.GoBackResendsBuffer := by
  unfold Obligations.GoBackResendsBuffer
  intro s rest h hop hp he hvs hrx
  have hrun : core.run s.fb.length (resent s 0) = .next (resent s s.fb.length) :=
    core_run_trace (fun k => step_resent h hop hp he hvs hrx) 0
  rw [resent_zero] at hrun
  refine ⟨_, hrun, ?_, rfl, rfl, rfl, rfl, ?_⟩
  · rw [resent, List.take_length]
  · rw [resent, hrx, List.drop_left' (List.length_replicate ..)]

/-! ### The fragments of an SDU (R119, R120) -/

theorem toNat_fragmentCount (len : BitVec 16) : (fragmentCount len).toNat = (len.toNat + 63) / 64 := by
  have := len.isLt
  simp only [fragmentCount, maxInfoBytes, BitVec.toNat_ofNat]
  omega

theorem infoBits_append (ds es : List Byte) : infoBits (ds ++ es) = infoBits ds ++ infoBits es := by
  simp [infoBits_eq_flatMap]

/-- The information field of fragment k of these SDU bytes. -/
def fragmentInfo (bytes : List Byte) (k : Nat) : Bits := infoBits ((bytes.drop (64 * k)).take 64)

/-- The information fields of the first n fragments are the bits of the first 64·n bytes. -/
theorem flatten_fragmentInfo (bytes : List Byte) (n : Nat) :
    ((List.range n).map (fragmentInfo bytes)).flatten = infoBits (bytes.take (64 * n)) := by
  induction n with
  | zero => rfl
  | succ n ih =>
    rw [List.range_succ, List.map_append, List.flatten_append, ih, Nat.mul_succ, List.take_add, infoBits_append]
    simp [fragmentInfo]

/-- A written SDU's fragments are its pieces of 64 bytes. -/
theorem fragmentBytes_of_sdu {s : State} {bytes : List Byte} (h : memoryRange s.sdu 0 s.sduLen.toNat = some bytes)
    (k : Nat) : fragmentBytes s k = some ((bytes.drop (64 * k)).take 64) := by
  obtain ⟨hlen, hread⟩ := memoryRange_some h
  refine (memoryRange_eq_some_iff s.sdu (64 * k) (min 64 (s.sduLen.toNat - 64 * k)) _).mpr
    ⟨by simp [hlen], fun j hj => ?_⟩
  have hj' := hread (64 * k + j) (by omega)
  rw [Nat.zero_add] at hj'
  rw [hj', List.getElem?_take_of_lt (by omega), List.getElem?_drop]

/-! ### The lossless transfer (R138) -/

/-- An RR is received as its P/F and N(R) (R114). -/
theorem receiveAck_rr (a : BitVec 8) (pf : Bool) (nr : SeqNum) :
    receiveAck a (some (buildFrame a (sControl codeRR pf nr) [])) = some ⟨pf, nr⟩ := by
  rw [receiveAck, receiveFrame, classify_buildFrame, ctrlType_sControl, ackOf_sControl, if_pos rfl]

/-- A loop step from an empty buffer whose answer has the next N(R): the fragment is sent and retired at once, and the
window moves on by one (R124, R131). -/
theorem step_sent_acknowledged {s : State} (hl : LoopNext s) (hlegal : 1 ≤ s.w.toNat ∧ s.w.toNat ≤ 7)
    (hfb : s.fb = []) (hedge : leftEdge s = s.vs) (hleft : s.fragNext.toNat < s.fragTotal.toNat)
    {ds : List Byte} {f : Bits}
    (hds : fragmentBytes s s.fragNext.toNat = some ds)
    (hf : f = buildI s.stationAddr (infoBits ds) s.vs (decide (s.fragNext.toNat + 1 = s.fragTotal.toNat)) s.vr)
    {x : Option Bits} {xs : List (Option Bits)} {pf : Bool} (hrx : s.rx = x :: xs)
    (hx : receiveAck s.stationAddr x = some ⟨pf, s.vs + 1⟩) :
    step s = .next { s with
      tx := s.tx ++ [.frame f], fragNext := s.fragNext + 1, vs := s.vs + 1, rhs := s.rhs + 1
      rx := xs, rxDrawn := s.rxDrawn + 1 } := by
  have hlen : s.fb.length = 0 := by rw [hfb]; rfl
  have hoff : windowOffset s = 0 := by rw [windowOffset, hedge, BitVec.sub_self]; rfl
  have hopen : s.vs ≠ s.rhs := (openTest_of hlegal (by omega) (by omega)).mpr (by omega)
  have hw : transferDone s = false := transferDone_eq_false fun hd => by rw [hd.2] at hleft; omega
  have hsent := txSubStep_fresh (s := { s with rx := xs, rxDrawn := s.rxDrawn + 1 }) hopen
    (hlen.trans_le (Nat.zero_le _)) hleft (hlen.trans_lt hlegal.1) hds hf
  have hone : (s.vs + 1 - leftEdge s).toNat = 1 := by rw [hedge]; exact toNat_seq_add_sub s.vs (k := 1) (by decide)
  rw [step_loop_listed hl hw hrx hsent, hx]
  refine (congrArg outcome (ackSubStep_kept (c := 1) ?_ le_rfl ?_ ?_)).trans ?_
  · exact hone
  · simp
  · exact hone.ge
  · simp [outcome, hfb]

/-- The frame of fragment k, numbered from VS as it is in POLL_SYNC. -/
def fragmentFrame (s : State) (bytes : List Byte) (k : Nat) : Bits :=
  buildI s.stationAddr (fragmentInfo bytes k) (s.vs + BitVec.ofNat 3 k) (decide (k + 1 = s.fragTotal.toNat)) 0

/-- The loop after the poll of s, with k fragments sent and each acknowledged in its own step (`step_poll` and
`step_delivered` are the links to the model). -/
def delivered (s : State) (bytes : List Byte) (k : Nat) : State :=
  { s with
    phase := .loop
    vs := s.vs + BitVec.ofNat 3 k
    rhs := s.rhs + BitVec.ofNat 3 k
    fragNext := BitVec.ofNat 16 k
    tx := s.tx ++ (List.range k).map fun i => .frame (fragmentFrame s bytes i)
    rx := s.rx.drop (k + 1)
    rxDrawn := s.rxDrawn + (k + 1) }

/-- The channel's answers to the poll and to each fragment. -/
def losslessAnswers (s : State) (nr0 : SeqNum) : List (Option Bits) :=
  some (buildFrame s.stationAddr (sControl codeRR true nr0) []) ::
    (List.range s.fragTotal.toNat).map
      (fun k => some (buildFrame s.stationAddr (sControl codeRR false (s.vs + BitVec.ofNat 3 (k + 1))) []))

theorem length_losslessAnswers (s : State) (nr0 : SeqNum) :
    (losslessAnswers s nr0).length = s.fragTotal.toNat + 1 := by
  simp [losslessAnswers]

/-- Fragment k's answer is listed first once the poll's and those of the fragments before it are drawn. -/
theorem rx_delivered {s : State} {nr0 : SeqNum} {rest : List (Option Bits)} (hrx : s.rx = losslessAnswers s nr0 ++ rest)
    (bytes : List Byte) {k : Nat} (hk : k < s.fragTotal.toNat) : (delivered s bytes k).rx =
      some (buildFrame s.stationAddr (sControl codeRR false (s.vs + BitVec.ofNat 3 (k + 1))) []) ::
        s.rx.drop (k + 2) := by
  have hrange : k + 1 < s.rx.length := by rw [hrx, List.length_append, length_losslessAnswers]; omega
  rw [delivered, List.drop_eq_getElem_cons hrange]
  simp [hrx, losslessAnswers, List.getElem_append_left, hk]

theorem loopNext_delivered {s : State} (h : EngineInv s) (hop : s.op = .dataReq) (he : s.env = []) (bytes : List Byte)
    (k : Nat) : LoopNext (delivered s bytes k) :=
  ⟨he, h.busy_of_dataReq hop, hop, rfl⟩

theorem toNat_fragNext_delivered {s : State} (bytes : List Byte) {k : Nat} (hk : k < s.fragTotal.toNat) :
    (delivered s bytes k).fragNext.toNat = k := by
  show (BitVec.ofNat 16 k).toNat = k
  rw [BitVec.toNat_ofNat, Nat.mod_eq_of_lt (hk.trans s.fragTotal.isLt)]

/-- The left edge moves with the fragments acknowledged, from VS, where an empty buffer puts it (R24). -/
theorem leftEdge_delivered {s : State} (h : EngineInv s) (hfb : s.fb = []) (bytes : List Byte) (k : Nat) :
    leftEdge (delivered s bytes k) = s.vs + BitVec.ofNat 3 k := by
  have hoff : windowOffset s = 0 := by simpa [hfb] using h.window.offset
  have hvs : leftEdge s = s.vs := by simpa [hoff] using leftEdge_add_offset s
  rw [leftEdge_advance s (delivered s bytes k) k rfl rfl, hvs]

section Lossless
variable {s : State} {bytes : List Byte} {nr0 : SeqNum} {rest : List (Option Bits)} (h : EngineInv s)
  (hop : s.op = .dataReq) (hp : s.phase = .pollSync) (he : s.env = []) (hrx : s.rx = losslessAnswers s nr0 ++ rest)
include h hop hp he

include hrx in
/-- The poll is answered with P/F = 1, so the loop starts, with nothing sent. -/
theorem step_poll : step s = .next (delivered s bytes 0) := by
  have hb := h.busy_of_dataReq hop
  obtain ⟨-, hnext⟩ := h.transfer.fresh_before_loop hp
  rw [step_no_event he, turn_running hb (by rw [runningCommand, hop]), exec_dataReq_pollSync hb hop hp,
    rxAttempt_listed hrx, receiveAck_rr]
  simp [pollSyncOn, delivered, hrx, hnext, losslessAnswers]

include hrx in
/-- Each step sends the next fragment into an empty buffer and is answered with the one N(R) that retires it. -/
theorem step_delivered (hsdu : memoryRange s.sdu 0 s.sduLen.toNat = some bytes) {k : Nat}
    (hk : k < s.fragTotal.toNat) : step (delivered s bytes k) = .next (delivered s bytes (k + 1)) := by
  obtain ⟨hfb, -⟩ := h.transfer.fresh_before_loop hp
  have hnext := toNat_fragNext_delivered bytes hk
  have hds : fragmentBytes (delivered s bytes k) (delivered s bytes k).fragNext.toNat =
      some ((bytes.drop (64 * k)).take 64) := by
    rw [hnext]
    exact fragmentBytes_of_sdu hsdu k
  have hack : receiveAck s.stationAddr
      (some (buildFrame s.stationAddr (sControl codeRR false (s.vs + BitVec.ofNat 3 (k + 1))) [])) =
      some ⟨false, s.vs + BitVec.ofNat 3 k + 1⟩ := by
    rw [seq_add_succ, receiveAck_rr]
  have hframe : fragmentFrame s bytes k =
      buildI s.stationAddr (infoBits ((bytes.drop (64 * k)).take 64)) (s.vs + BitVec.ofNat 3 k)
        (decide ((delivered s bytes k).fragNext.toNat + 1 = s.fragTotal.toNat)) s.vr := by
    rw [hnext, h.transfer.vr_zero]
    rfl
  rw [step_sent_acknowledged (loopNext_delivered h hop he bytes k) (h.window_of_dataReq hop) hfb
    (leftEdge_delivered h hfb bytes k) (by rw [hnext]; exact hk) hds hframe (rx_delivered hrx bytes hk) hack]
  simp only [delivered, BitVec.ofNat_add, List.range_succ, List.map_append, ← BitVec.add_assoc, ← List.append_assoc]
  rfl

/-- With every fragment acknowledged the next step completes. -/
theorem step_allDelivered : step (delivered s bytes s.fragTotal.toNat) =
    .next (complete .srvSuccessful 0 .none 0 (delivered s bytes s.fragTotal.toNat)) := by
  obtain ⟨hfb, -⟩ := h.transfer.fresh_before_loop hp
  exact step_loop_done (loopNext_delivered h hop he bytes _)
    ((transferDone_iff _).mpr ⟨hfb, BitVec.ofNat_toNat ..⟩)

end Lossless

/-- Settles O59: the poll, the trace `delivered`, and the completing step. -/
theorem losslessTransferDeliversSdu : Obligations.LosslessTransferDeliversSdu := by
  unfold Obligations.LosslessTransferDeliversSdu
  intro s bytes nr0 rest h hop hp he hsdu hrx
  have hrx : s.rx = losslessAnswers s nr0 ++ rest := hrx
  have hlen := (memoryRange_some hsdu).1
  have htotal : s.fragTotal.toNat = (s.sduLen.toNat + 63) / 64 := by rw [h.transfer.total, toNat_fragmentCount]
  have hfb := (h.transfer.fresh_before_loop hp).1
  refine ⟨complete .srvSuccessful 0 .none 0 (delivered s bytes s.fragTotal.toNat),
    (List.range s.fragTotal.toNat).map (fragmentInfo bytes), ?_, by simp, ?_, ?_, rfl, rfl, rfl, hfb, ?_⟩
  · calc core.run (s.fragTotal.toNat + 2) s
        = core.run (s.fragTotal.toNat + 1) (delivered s bytes 0) := core_run_succ (step_poll h hop hp he hrx) _
      _ = core.run 1 (delivered s bytes s.fragTotal.toNat) :=
          core_run_trace (fun k => step_delivered h hop hp he hrx hsdu) 1
      _ = _ := core_run_succ (step_allDelivered h hop hp he) 0
  · rw [flatten_fragmentInfo, List.take_of_length_le (by omega)]
  · exact congrArg (s.tx ++ ·) (List.ext_getElem (by simp) fun k _ _ => by simp [fragmentFrame])
  · show s.rx.drop (s.fragTotal.toNat + 1) = rest
    rw [hrx, List.drop_left' (length_losslessAnswers s nr0)]

end Sys2Proof.Machine
end

section
/-! What an idle engine leaves undone: its turn with no word at the port, and the commands it refuses (60_exceptions.md
R146, R149, R153). -/

namespace Sys2Proof.Machine

/-- Settles O10: the engine's turn, taken idle with an empty port. -/
theorem idleEngineWaits : Obligations.IdleEngineWaits := by
  unfold Obligations.IdleEngineWaits
  intro s u hu hb hp
  rw [step_atTurn hu, turn_idle_empty hb hp]

/-! ### The refusing branches of the checks (R72) -/

/-- CFG_ERR is the first check: it refuses whatever the others would find. -/
theorem screenCommand_cfg {s : State} (hc : s.cfgErr = true) (cause : Option Reason) (start : State → State) :
    screenCommand cause start s = refuse .cfg s := by
  simp [screenCommand, hc]

/-- CLOSED is the second: it refuses before the word is judged. -/
theorem screenCommand_closed {s : State} (hc : s.cfgErr = false) (hcl : s.closed = true) (cause : Option Reason)
    (start : State → State) : screenCommand cause start s = refuse .closed s := by
  simp [screenCommand, hc, hcl]

/-- A cause found in the word is the last. -/
theorem screenCommand_cause {s : State} (hc : s.cfgErr = false) (hcl : s.closed = false) (r : Reason)
    (start : State → State) : screenCommand (some r) start s = refuse r s := by
  simp [screenCommand, hc, hcl]

/-- Every command reaches an idle engine through the checks of R72; the commands differ in cause and start only. -/
theorem exec_command_idle {s : State} (hb : s.busy = false) {i : Instr}
    (hi : i = .connInd ∨ i = .connResp ∨ i = .discInd ∨ i = .close ∨ ∃ len, i = .dataReq len) :
    ∃ cause start, exec i s = .next (screenCommand cause start s) := by
  rcases hi with rfl | rfl | rfl | rfl | ⟨len, rfl⟩
  · exact ⟨_, _, exec_connInd_idle hb⟩
  · exact ⟨_, _, exec_connResp_idle hb⟩
  · exact ⟨_, _, exec_discInd_idle hb⟩
  · exact ⟨_, _, exec_close_idle hb⟩
  · exact ⟨_, _, exec_dataReq_idle hb len⟩

/-- Settles O19: the first two checks refuse any command, the LEN check a DATA_REQ. -/
theorem commandsRefused : Obligations.CommandsRefused := by
  unfold Obligations.CommandsRefused
  intro s i hi hb
  obtain ⟨cause, start, hexec⟩ := exec_command_idle hb hi
  refine ⟨fun hc => ?_, fun hc hcl => ?_, fun len hlen hc hcl hlong => ?_⟩
  · rw [hexec, screenCommand_cfg hc, refuse]
  · rw [hexec, screenCommand_closed hc hcl, refuse]
  · have hcause : lenCause len s = some .len := by rw [lenCause, if_pos hlong]
    rw [hlen, exec_dataReq_idle hb, hcause, screenCommand_cause hc hcl, refuse]

end Sys2Proof.Machine
end

section
/-! What a reset event leaves, register by register (70_reset_and_hazards.md R163). -/

namespace Sys2Proof.Machine

/-- RHS after a reset is the sampled W mod 8, in the spelling of R20. -/
theorem applyReset_rhs_eq_ofNat (a : BitVec 8) (n : BitVec 4) (s : State) :
    (applyReset a n s).rhs = BitVec.ofNat 3 (n.toNat % 8) :=
  windowSeq_eq_ofNat (applyReset a n s)

/-- A reset forgets every byte of the SDU buffer. -/
theorem sduRead_applyReset (a : BitVec 8) (n : BitVec 4) (s : State) (i : Nat) :
    sduRead (applyReset a n s) i = none := by
  rw [sduRead, applyReset_sdu, memoryRead]

/-- A reset event's step, whatever the state (R163). -/
theorem step_reset {s : State} {a : BitVec 8} {n : BitVec 4} {es : List Event} (h : s.env = .reset a n :: es) :
    step s = .next (applyReset a n { s with env := es }) := by
  rw [step_event h, takeEvent]

/-- Settles O9: the event's step is `applyReset`, whose fields are their reset values. -/
theorem resetWritesEveryRegister : Obligations.ResetWritesEveryRegister := by
  unfold Obligations.ResetWritesEveryRegister
  intro s addr size es he
  refine ⟨_, step_reset he, ?_⟩
  simp [-applyReset_rhs, applyReset_rhs_eq_ofNat, sduRead_applyReset, windowSizeIllegal]

end Sys2Proof.Machine
end
